-- ==== Sys2Proof/Word.lean ====
section
/-! DEFINITION. The byte and the 16-bit register word (spec/00_scope.md R14, spec/10_state.md R28 to R31). -/

namespace Sys2Proof

/-- A byte: 8 bits, an unsigned integer 0 to 255 (R14). -/
abbrev Byte := BitVec 8

/-- The width of CNT, ACC, RXSUM and MEAS (R28 to R31). -/
abbrev Word16 := BitVec 16

/-- The width of the extended dispatch word XDW = RST ++ LC ++ ST ++ PH ++ EV (R100). -/
abbrev Xdw := BitVec 9

end Sys2Proof
end

