-- ==== Sys2Proof/Config.lean ====
section
/-! DEFINITION. What an instance fixes for its lifetime: the FrameLayout (spec/00_scope.md R8), the value sets of
the sequencing registers (spec/30_encoding.md R99) and of the failure record (spec/60_exceptions.md R229), and the constants the spec leaves without a value. -/

namespace Sys2Proof

/-- The byte order of a two-byte trailer (R8; decision D4). -/
inductive Endian
  | big
  | little
deriving DecidableEq, Repr

/-- The FrameLayout record (R8), under the names of spec/10_state.md R21. `H` is the length of `hdr`. POLL_MS is the
one field the block does not hold (R21); it is `Config.pollMs`. -/
structure FrameLayout where
  /-- L, the number of bytes in a frame. -/
  l : Nat
  /-- HDR, the bytes expected at the frame's first indices. -/
  hdr : List Byte
  /-- CW, the width of the checksum field in bytes. -/
  cw : Nat
  /-- CEND, the byte order of the received checksum field; ignored when CW = 1. -/
  cend : Endian
  /-- CS_START, the first index summed. -/
  csStart : Nat
  /-- CS_END, the index after the last one summed. -/
  csEnd : Nat
  /-- CT_OFF, the index of the received checksum field's first byte. -/
  ctOff : Nat
  /-- V_HI, the index of the measurement's high byte. -/
  vHi : Nat
  /-- V_LO, the index of the measurement's low byte. -/
  vLo : Nat
deriving DecidableEq, Repr

/-- H = len(HDR) (R8). -/
abbrev FrameLayout.h (c : FrameLayout) : Nat := c.hdr.length

/-- The lifecycle register's values (R23, R99). The code 3 is unrepresentable (R101). -/
inductive Lifecycle
  | uninit
  | ready
  | failed
deriving DecidableEq, Repr

/-- The cycle state register's values (R24, R99). -/
inductive CycleState
  | idle
  | reading
  | validating
  | reporting
deriving DecidableEq, Repr

/-- The phase register's values (R25). The code 3 is unrepresentable (R99, R101). -/
inductive Phase
  | p0
  | p1
  | p2
deriving DecidableEq, Repr

/-- What the command port's EV carries (R99), with the bit `transport_ok` that accompanies SETUP (R183, R223). -/
inductive Event
  | none
  | setup (transportOk : Bool)
  | tick
  | describe
deriving DecidableEq, Repr

/-- Layout A, the one layout the source gives in full (R10). -/
def Config.layoutA : FrameLayout where
  l := 32
  hdr := [0x42, 0x4D]
  cw := 2
  cend := .big
  csStart := 0
  csEnd := 30
  ctOff := 30
  vHi := 6
  vLo := 7

/-- The text of `describe()`: an uninterpreted value that depends on the layout and LC only (R188, U12; log entry 14). -/
opaque Config.describeText : FrameLayout → Lifecycle → String

end Sys2Proof

namespace Sys2Proof.Machine

/-- The failure kind register's values (spec/10_state.md R33, spec/60_exceptions.md R201). -/
inductive FailKind
  | none
  | transportIncomplete
  | transportError
  | badHeader
  | badChecksum
  | setupFailure
deriving DecidableEq, Repr

/-- What DA or DB holds (spec/10_state.md R33): a sequence of H bytes, or a sum. -/
inductive DiagVal
  | bytes (bs : List Byte)
  | sum (v : Word16)
deriving DecidableEq, Repr

/-- The two diagnostic registers (spec/10_state.md R33). -/
inductive DiagReg
  | da
  | db
deriving DecidableEq, Repr

/-- The diagnostic record (spec/60_exceptions.md R229). -/
inductive Record
  | transportIncomplete
  | transportError
  | badHeader (expected actual : List Byte)
  | badChecksum (computed received : Word16)
  | setupFailure
deriving DecidableEq, Repr, Inhabited

end Sys2Proof.Machine

namespace Sys2Proof

/-- What FB[i] contributes where nothing has written it: a free value (spec/10_state.md R37, "unspecified"; log entry 2). -/
opaque Config.unwrittenByte : Nat → Byte

/-- What MEAS contributes where nothing has written it: a free value (R37; log entry 2). -/
opaque Config.unwrittenMeas : Word16

/-- Byte j of the header that DA or DB contributes where it holds none: a free value (R37; log entry 2). -/
opaque Config.unwrittenHeaderByte : Machine.DiagReg → Nat → Byte

/-- The sum that DA or DB contributes where it holds none: a free value (R37; log entry 2). -/
opaque Config.unwrittenSum : Machine.DiagReg → Word16

/-- record(None, DA, DB), which spec/60_exceptions.md R229 does not state: a free value, any record of the closed set (log
entry 19). -/
opaque Config.unstatedRecord : Option Machine.DiagVal → Option Machine.DiagVal → Machine.Record

/-- POLL_MS, the period of the scheduler's tick: no value in the source, read by no rule (R11, U4; log entry 17). -/
opaque Config.pollMs : Nat

/-- T_READ_MS, the transport's bound on the wait of one RDEXACT: read by no rule (R11, U4; log entry 17). -/
opaque Config.readTimeoutMs : Nat

end Sys2Proof
end

