-- ==== Sys2Proof/Syntax.lean ====
section
/-! DEFINITION. The operations: one constructor per row of spec/opcode_table.json (spec/30_encoding.md R98, R100, R103, R81). -/

namespace Sys2Proof

/-- The block's operations, the three pseudo-operations and the frame format of layout A. The spec gives an operand
to SETUP (R183) and free bytes to FRAME_A (R81); every other row has "Operands: none" at the dispatch word. -/
inductive Instr
  /-- RESET (R181). -/
  | reset
  /-- SETUP (R183), with the bit `transport_ok` of the command port. -/
  | setup (transportOk : Bool)
  /-- TICK (R162). -/
  | tick
  /-- DESCRIBE (R188). -/
  | describe
  /-- WAIT (R170). -/
  | wait
  /-- IGNORE.SETUP_READY (R161 (d)). -/
  | ignoreSetupReady
  /-- IGNORE.SETUP_FAILED (R161 (d)). -/
  | ignoreSetupFailed
  /-- IGNORE.TICK_UNINIT (R161 (c)). -/
  | ignoreTickUninit
  /-- IGNORE.TICK_FAILED (R161 (b)). -/
  | ignoreTickFailed
  /-- FLUSH (R111, R257). -/
  | flush
  /-- READ (R114). -/
  | read
  /-- HDRCHK (R131). -/
  | hdrchk
  /-- SUMCHK (R135). -/
  | sumchk
  /-- EXTRACT (R139). -/
  | extract
  /-- REPORT (R168). -/
  | report
  /-- ACQUIRE = FLUSH ; READ (R103, R117). -/
  | acquire
  /-- VALIDATE = HDRCHK ; SUMCHK ; EXTRACT (R103, R140). -/
  | validate
  /-- POLL = TICK ; ACQUIRE ; VALIDATE ; REPORT (R103, R171). -/
  | poll
  /-- FRAME_A, a frame of layout A's format (R81): header 42 4D, then `a` (bytes 2 to 5), `h`, `l`, `b` (bytes 8 to
  29), `c`, `d`. -/
  | frameA (a : List Byte) (h l : Byte) (b : List Byte) (c d : Byte)
deriving DecidableEq, Repr

/-- The 32 bytes of a FRAME_A, index 0 first (R81). -/
def frameABytes (a : List Byte) (h l : Byte) (b : List Byte) (c d : Byte) : List Byte :=
  [0x42, 0x4D] ++ a ++ [h, l] ++ b ++ [c, d]

end Sys2Proof
end

