-- ==== Sys2Proof/WellFormed.lean ====
section
/-! DEFINITION. Well-formedness: the predicate WF of a FrameLayout (spec/00_scope.md R9), the layout with its proof
(spec/30_encoding.md R86), and the well-formed operations (spec/30_encoding.md R81). -/

namespace Sys2Proof

/-- WF(layout) (R9), clause by clause. -/
def FrameLayout.wf (c : FrameLayout) : Bool :=
  decide (1 ≤ c.l) && decide (c.l ≤ 65535) && decide (c.h ≤ c.l) && (c.cw == 1 || c.cw == 2)
    && decide (c.csStart ≤ c.csEnd) && decide (c.csEnd ≤ c.l) && decide (c.ctOff + c.cw ≤ c.l)
    && decide (c.vHi < c.l) && decide (c.vLo < c.l)

/-- A layout with a proof of WF: an instance is not built without one (R22, R86). -/
structure WfLayout where
  /-- The layout registers. -/
  raw : FrameLayout
  /-- The proof that they are a configuration of this hardware. -/
  wf : raw.wf = true
deriving DecidableEq, Repr

/-- Layout A is well formed (R9, R10). -/
theorem Config.layoutA_wf : Config.layoutA.wf = true := by decide

/-- Layout A with its proof. -/
def Config.wfLayoutA : WfLayout := ⟨Config.layoutA, Config.layoutA_wf⟩

/-- An operation is well formed when its operands have the lengths its encoding gives them: for FRAME_A 4 bytes
`a` and 22 bytes `b` (R81). The checksum constraint is arithmetic, not part of the form (R81, R84). -/
def Instr.wf : Instr → Bool
  | .reset | .setup _ | .tick | .describe | .wait | .ignoreSetupReady | .ignoreSetupFailed | .ignoreTickUninit
  | .ignoreTickFailed | .flush | .read | .hdrchk | .sumchk | .extract | .report | .acquire | .validate | .poll => true
  | .frameA a _ _ b _ _ => decide (a.length = 4) && decide (b.length = 22)

end Sys2Proof
end

