-- ==== Sys2Proof/Decode.lean ====
section
/-! DEFINITION. The decoder and the encoder: the selection table of spec/30_encoding.md R100 as rows of mask and match,
the paths of the pseudo-operations (R103), the frame format of layout A (R81), and the form in which each is presented
to the block as bytes (log entry 10). -/

namespace Sys2Proof

/-- Where a presentation comes from: the command port together with the sequencing state (R100), a request to run a
pseudo-operation's path (R103; log entry 8), or bytes on the transport (R80). -/
inductive Port
  | command
  | path
  | transport
deriving DecidableEq, Repr

/-- What is presented to the decoder: a port and the bytes on it. -/
structure Presentation where
  port : Port
  bytes : List Byte
deriving DecidableEq, Repr

/-- Why a presentation is no operation. -/
inductive DecodeError
  /-- The port takes no presentation of this many bytes. -/
  | badLength
  /-- A bit above the last dispatch word is set. -/
  | reservedBits
  /-- LC = 3: the code is never written and gets no behaviour (R101). -/
  | unusedLifecycle
  /-- No row of R100 matches (R101, U9). -/
  | noRow
  /-- A sequence of dispatch words that is no pseudo-operation's path (R103). -/
  | notAPath
  /-- 32 bytes that do not begin with layout A's header (R81). -/
  | notFrameA
deriving DecidableEq, Repr

/-! ### Codes (R99) and the dispatch word (R100) -/

/-- The code of LC (R99). -/
def Lifecycle.code : Lifecycle → BitVec 2
  | .uninit => 0
  | .ready => 1
  | .failed => 2

/-- The code of ST (R99). -/
def CycleState.code : CycleState → BitVec 2
  | .idle => 0
  | .reading => 1
  | .validating => 2
  | .reporting => 3

/-- The code of PH (R25, R99). -/
def Phase.code : Phase → BitVec 2
  | .p0 => 0
  | .p1 => 1
  | .p2 => 2

/-- The code of EV (R99). -/
def Event.code : Event → BitVec 2
  | .none => 0
  | .setup _ => 1
  | .tick => 2
  | .describe => 3

/-- The bit `transport_ok` the command port carries with SETUP (R223). -/
def Event.okBit : Event → Bool
  | .setup ok => ok
  | .none | .tick | .describe => false

/-- XDW = RST ++ LC ++ ST ++ PH ++ EV (R100). -/
def xdwOf (rst : Bool) (lc : Lifecycle) (st : CycleState) (ph : Phase) (ev : Event) : Xdw :=
  BitVec.ofBool rst ++ lc.code ++ st.code ++ ph.code ++ ev.code

/-! ### Bytes and packed words -/

/-- The `k` low bytes of `n`, least significant first. -/
def leBytes : Nat → Nat → List Byte
  | 0, _ => []
  | k + 1, n => BitVec.ofNat 8 n :: leBytes k (n / 256)

/-- The number whose bytes these are, least significant first. -/
def leNat : List Byte → Nat
  | [] => 0
  | b :: bs => b.toNat + 256 * leNat bs

/-- Dispatch words packed 9 bits each, the first in the low bits. -/
def packWords : List Xdw → Nat
  | [] => 0
  | w :: ws => w.toNat + 512 * packWords ws

/-- The `k` dispatch words packed in `n`. -/
def unpackWords : Nat → Nat → List Xdw
  | 0, _ => []
  | k + 1, n => BitVec.ofNat 9 n :: unpackWords k (n / 512)

/-! ### The selection table (R100, spec/opcode_table.json) -/

/-- One row: an XDW selects it when `XDW and mask = value`. -/
structure Row where
  mnemonic : String
  mask : Xdw
  value : Xdw
  /-- The operation selected, given the command port's bit `transport_ok`. -/
  make : Bool → Instr

/-- `XDW and mask = match` (R100). -/
def rowSelects (x : Xdw) (r : Row) : Bool := x &&& r.mask == r.value

/-- The rows of format command, idle and ignore. -/
def commandRows : List Row :=
  [ ⟨"RESET", 0x100, 0x100, fun _ => .reset⟩,
    ⟨"SETUP", 0x1FF, 0x001, fun ok => .setup ok⟩,
    ⟨"TICK", 0x1FF, 0x042, fun _ => .tick⟩,
    ⟨"DESCRIBE", 0x13F, 0x003, fun _ => .describe⟩,
    ⟨"WAIT", 0x13F, 0x000, fun _ => .wait⟩,
    ⟨"IGNORE.SETUP_READY", 0x1FF, 0x041, fun _ => .ignoreSetupReady⟩,
    ⟨"IGNORE.SETUP_FAILED", 0x1FF, 0x081, fun _ => .ignoreSetupFailed⟩,
    ⟨"IGNORE.TICK_UNINIT", 0x1FF, 0x002, fun _ => .ignoreTickUninit⟩,
    ⟨"IGNORE.TICK_FAILED", 0x1FF, 0x082, fun _ => .ignoreTickFailed⟩ ]

/-- The rows of format phase. -/
def phaseRows : List Row :=
  [ ⟨"FLUSH", 0x1FC, 0x050, fun _ => .flush⟩,
    ⟨"READ", 0x1FC, 0x054, fun _ => .read⟩,
    ⟨"HDRCHK", 0x1FC, 0x060, fun _ => .hdrchk⟩,
    ⟨"SUMCHK", 0x1FC, 0x064, fun _ => .sumchk⟩,
    ⟨"EXTRACT", 0x1FC, 0x068, fun _ => .extract⟩,
    ⟨"REPORT", 0x1FC, 0x070, fun _ => .report⟩ ]

/-- The table of R100, with the RESET line as bit 8. -/
def dispatchTable : List Row := commandRows ++ phaseRows

/-! ### The decoder -/

/-- The operation an extended dispatch word selects. With the RESET line low, LC = 3 selects nothing, although the
WAIT and DESCRIBE rows do not test LC (R101, C14; log entry 11). -/
def decodeXdw (x : Xdw) (ok : Bool) : Except DecodeError Instr :=
  match dispatchTable.find? (rowSelects x) with
  | none => .error .noRow
  | some r => if !x.getLsbD 8 && x.extractLsb' 6 2 == 3#2 then .error .unusedLifecycle else .ok (r.make ok)

/-- The operations a sequence of dispatch words selects, in order. -/
def decodeWords : List Xdw → Except DecodeError (List Instr)
  | [] => .ok []
  | w :: ws =>
    match decodeXdw w false, decodeWords ws with
    | .ok i, .ok is => .ok (i :: is)
    | .error e, _ => .error e
    | .ok _, .error e => .error e

/-- A presentation of the command port: 16 bits, low byte first; XDW in bits 8 to 0, `transport_ok` in bit 9. -/
def decodeCommand : List Byte → Except DecodeError Instr
  | [lo, hi] =>
    let w : BitVec 16 := hi ++ lo
    if w.extractLsb' 10 6 = 0#6 then decodeXdw (w.extractLsb' 0 9) (w.getLsbD 9) else .error .reservedBits
  | _ => .error .badLength

/-- How many dispatch words a path presentation of this many bytes holds. -/
def pathWords : Nat → Option Nat
  | 3 => some 2
  | 4 => some 3
  | 8 => some 7
  | _ => none

/-- The pseudo-operation whose expansion this is (R103). -/
def pathInstr : List Instr → Except DecodeError Instr
  | [.flush, .read] => .ok .acquire
  | [.hdrchk, .sumchk, .extract] => .ok .validate
  | [.tick, .flush, .read, .hdrchk, .sumchk, .extract, .report] => .ok .poll
  | _ => .error .notAPath

/-- A presentation of a path: its dispatch words packed 9 bits each, the first in the low bits, low byte first. -/
def decodePath (bs : List Byte) : Except DecodeError Instr :=
  match pathWords bs.length with
  | none => .error .badLength
  | some k =>
    if leNat bs < 512 ^ k then
      match decodeWords (unpackWords k (leNat bs)) with
      | .ok is => pathInstr is
      | .error e => .error e
    else .error .reservedBits

/-- A presentation of the transport: 32 bytes, index 0 first, whose first two are layout A's header (R81). -/
def decodeFrame (bs : List Byte) : Except DecodeError Instr :=
  if bs.length = 32 then
    if bs.take 2 = [0x42, 0x4D] then
      let r := bs.drop 2
      .ok (.frameA (r.take 4) (r.getD 4 0) (r.getD 5 0) ((r.drop 6).take 22) (r.getD 28 0) (r.getD 29 0))
    else .error .notFrameA
  else .error .badLength

/-- The decoder: total on any bytes of any port. -/
def decode (p : Presentation) : Except DecodeError Instr :=
  match p.port with
  | .command => decodeCommand p.bytes
  | .path => decodePath p.bytes
  | .transport => decodeFrame p.bytes

/-! ### The encoder -/

/-- A dispatch word and the bit `transport_ok` as the command port presents them. -/
def presentXdw (x : Xdw) (ok : Bool) : Presentation :=
  let w : BitVec 16 := 0#6 ++ BitVec.ofBool ok ++ x
  ⟨.command, [w.extractLsb' 0 8, w.extractLsb' 8 8]⟩

/-- A path as it is presented, in `k` bytes. -/
def presentPath (k : Nat) (ws : List Xdw) : Presentation := ⟨.path, leBytes k (packWords ws)⟩

/-- The presentation of a well-formed operation, with every bit its row leaves free at 0 (log entry 13). -/
def encode : Instr → Presentation
  | .reset => presentXdw 0x100 false
  | .setup ok => presentXdw 0x001 ok
  | .tick => presentXdw 0x042 false
  | .describe => presentXdw 0x003 false
  | .wait => presentXdw 0x000 false
  | .ignoreSetupReady => presentXdw 0x041 false
  | .ignoreSetupFailed => presentXdw 0x081 false
  | .ignoreTickUninit => presentXdw 0x002 false
  | .ignoreTickFailed => presentXdw 0x082 false
  | .flush => presentXdw 0x050 false
  | .read => presentXdw 0x054 false
  | .hdrchk => presentXdw 0x060 false
  | .sumchk => presentXdw 0x064 false
  | .extract => presentXdw 0x068 false
  | .report => presentXdw 0x070 false
  | .acquire => presentPath 3 [0x050, 0x054]
  | .validate => presentPath 4 [0x060, 0x064, 0x068]
  | .poll => presentPath 8 [0x042, 0x050, 0x054, 0x060, 0x064, 0x068, 0x070]
  | .frameA a h l b c d => ⟨.transport, frameABytes a h l b c d⟩

/-! ### Words as spec/opcode_table.json numbers them -/

/-- The presentation of a word numbered as the table numbers it: up to 16 bits for a dispatch row; 18, 27 and 63 bits
in 3, 4 and 8 bytes for the paths of ACQUIRE, VALIDATE and POLL; 256 bits for FRAME_A, whose byte index 0 is the most
significant (the table's own numbering). -/
def tablePresentation (nbits w : Nat) : Presentation :=
  if nbits ≤ 16 then ⟨.command, leBytes 2 w⟩
  else if nbits ≤ 24 then ⟨.path, leBytes 3 w⟩
  else if nbits ≤ 32 then ⟨.path, leBytes 4 w⟩
  else if nbits ≤ 64 then ⟨.path, leBytes 8 w⟩
  else ⟨.transport, (leBytes 32 w).reverse⟩

/-- The operation the decoder reads from a word numbered as spec/opcode_table.json numbers it. -/
def decodeTableWord (nbits w : Nat) : Option Instr :=
  match decode (tablePresentation nbits w) with
  | .ok i => some i
  | .error _ => none

end Sys2Proof
end

