-- ==== Sys2Proof/Machine/State.lean ====
section
/-! DEFINITION. The machine's state as plain data: every register of spec/10_state.md, the transport and the inputs the
environment presents, and the port transactions made so far; the reasons a step can stop; the state after reset. -/

namespace Sys2Proof.Machine

/-- The frame index space (spec/20_memory.md R50): (index, byte) cells, indices strictly rising; an index that is not
listed holds no value (spec/10_state.md R34; log entry 25). -/
abbrev Memory := List Host.Cell

/-- What RDEXACT answered (spec/20_memory.md R59): `err = 1`, when the bytes and the count carry no meaning, or `err = 0`
with the bytes, whose number is k. -/
inductive ReadResult
  | failed
  | bytes (bs : List Byte)
deriving DecidableEq, Repr

/-- The port transactions (spec/00_scope.md R13, spec/60_exceptions.md R222 to R226). -/
inductive Transaction
  /-- AVAIL() returned n (R57). -/
  | avail (n : Nat)
  /-- RDBYTE() returned b (R58). -/
  | rdbyte (b : Byte)
  /-- RDEXACT(n) answered r (R59). -/
  | rdexact (n : Nat) (r : ReadResult)
  /-- DIAG(r) (R229). -/
  | diag (r : Record)
  /-- PUBLISH(p): a value is `some n` (pub_valid = 1, pub_value = n), invalid is `Option.none` (pub_valid = 0) (R168). -/
  | publish (p : Option Word16)
  /-- The text DESCRIBE returned (R188). -/
  | describe (text : String)
deriving DecidableEq, Repr

/-- One answer the transport will give to RDEXACT (R59, R61; log entry 6). -/
inductive ReadAnswer
  /-- Not yet: READ holds for this step (R257). -/
  | hold
  /-- `err = 0`, and the transport returns up to `k` bytes: never more than asked for, never more than it has. -/
  | ok (k : Nat)
  /-- `err = 1`, and up to `lost` bytes have left the stream. -/
  | failed (lost : Nat)
deriving DecidableEq, Repr

/-- The transport (R61): the part of the stream that has arrived and the position up to which it is consumed, then the
script of what it will do (log entries 5 and 6). -/
structure Transport where
  /-- S, as far as it has arrived. -/
  received : List Byte
  /-- p, the number of bytes consumed. -/
  consumed : Nat
  /-- The bursts to come, one before each AVAIL and before each RDEXACT. -/
  arrivals : List (List Byte)
  /-- The burst before every such call once `arrivals` is used up. -/
  steady : List Byte
  /-- The answers to come; when there is none left, READ holds. -/
  answers : List ReadAnswer
deriving DecidableEq, Repr

/-- What the command port carries in one step: the RESET line and EV (R223). -/
structure Command where
  rst : Bool
  ev : Event
deriving DecidableEq, Repr

/-- What the outside world does in one step (log entry 4). -/
inductive Input
  /-- The scheduler drives the command port. -/
  | command (c : Command)
  /-- A request to run a pseudo-operation's path as one step (log entry 8). -/
  | path (bytes : List Byte)
  /-- Bytes arrive at the transport between two operations (R68). -/
  | arrival (bytes : List Byte)
deriving DecidableEq, Repr

/-- The state of one instance (spec/10_state.md R20) and of what stands at its ports. -/
structure State where
  /-- The layout registers, which nothing writes (R21, R22). -/
  layout : WfLayout
  /-- LC (R23). -/
  lc : Lifecycle
  /-- ST (R24). -/
  st : CycleState
  /-- PH (R25). -/
  ph : Phase
  /-- FB[0..L) (R27). -/
  fb : Memory
  /-- CNT (R28). -/
  cnt : Option Word16
  /-- ACC (R29). -/
  acc : Option Word16
  /-- RXSUM (R30). -/
  rxsum : Option Word16
  /-- MEAS (R31). -/
  meas : Option Word16
  /-- HOK (R32). -/
  hok : Bool
  /-- SOK (R32). -/
  sok : Bool
  /-- OUTV (R32). -/
  outv : Bool
  /-- FK (R33). -/
  fk : FailKind
  /-- DA (R33). -/
  da : Option DiagVal
  /-- DB (R33). -/
  db : Option DiagVal
  /-- The transport (R35, R61). -/
  transport : Transport
  /-- What the outside world does in the steps to come; nothing once the list is used up. -/
  inputs : List Input
  /-- The port transactions made so far, oldest first; no operation reads it. -/
  out : List Transaction
deriving DecidableEq, Repr

/-- Why the machine stops with a fault: it never does. The block never halts, and in every reachable state an operation is
enabled (spec/70_reset_and_hazards.md R256); its failures are values that a next state holds (spec/60_exceptions.md R206). -/
inductive Fault
deriving DecidableEq, Repr

/-- Why a step has no meaning. -/
inductive Refusal
  /-- An instruction that is not modelled; no arm of `exec` answers so. Safe. -/
  | notModelled (mnemonic : String)
  /-- `exec` was asked for an operation in a state whose dispatch word does not select it (R100, R101, U9). Raised by
  every operation but RESET and FRAME_A; `step` raises it only for a pseudo-operation's path. Safe. -/
  | notSelected
  /-- The dispatch word matches no row (R101, U9), or a path presentation is no path (R103). Raised by `step`. Safe. -/
  | noOperationSelected
  /-- RDBYTE on an empty transport, to which the spec gives no meaning (U6). Raised by FLUSH; never reached. Safe. -/
  | readByteFromEmpty
deriving DecidableEq, Repr

/-- What a step of this machine answers. -/
abbrev Result := Host.Outcome State Fault Refusal

/-- A transport that has received nothing and will do nothing (log entry 23). -/
def Transport.empty : Transport := ⟨[], 0, [], [], []⟩

/-- The state after reset (R37), with layout A (log entry 1), an empty transport, nothing presented and no transaction
made (log entry 23). -/
def State.reset : State where
  layout := Config.wfLayoutA
  lc := .uninit
  st := .idle
  ph := .p0
  fb := []
  cnt := none
  acc := none
  rxsum := none
  meas := none
  hok := false
  sok := false
  outv := false
  fk := .none
  da := none
  db := none
  transport := Transport.empty
  inputs := []
  out := []

end Sys2Proof.Machine
end

