-- ==== Sys2Proof/Machine/Operands.lean ====
section
/-! DEFINITION. Reading and writing the frame buffer, and the four operands assembled from frame bytes
(spec/30_encoding.md R82): the actual header, the computed sum, the received sum and the measurement; the pure functions
`validate` (R140), `acquire_frame` (R117) and `poll` (R171). -/

namespace Sys2Proof.Machine

/-! ### The frame index space (spec/20_memory.md R50, R55, R60) -/

/-- FB[a]; absent where nothing has been written (R34). -/
def Memory.read : Memory → Nat → Option Byte
  | [], _ => none
  | (k, v) :: m, a => if k = a then some v else Memory.read m a

/-- FB[a] <- b, keeping the canonical form. -/
def Memory.write : Memory → Nat → Byte → Memory
  | [], a, b => [(a, b)]
  | (k, v) :: m, a, b =>
    if a < k then (a, b) :: (k, v) :: m else if a = k then (a, b) :: m else (k, v) :: Memory.write m a b

/-- The canonical form: indices strictly rising, hence none listed twice. -/
def Memory.wf : Memory → Bool
  | [] => true
  | (k, _) :: m => (m.all fun c => decide (k < c.1)) && Memory.wf m

/-- What an operation gets when it reads FB[i]; a free value where nothing has written it (R37; log entry 2). -/
def fbByte (m : Memory) (i : Nat) : Byte := (Memory.read m i).getD (Config.unwrittenByte i)

/-- MemRead(i, n): FB[i], ..., FB[i+n-1] (spec/00_scope.md R15). -/
def memRead (m : Memory) (i : Nat) : Nat → List Byte
  | 0 => []
  | n + 1 => fbByte m i :: memRead m (i + 1) n

/-- FB[i] <- bs[0], FB[i+1] <- bs[1], ... (the loop of spec/41_frame_reader.md R114). -/
def storeBytes (m : Memory) (i : Nat) : List Byte → Memory
  | [] => m
  | b :: bs => storeBytes (Memory.write m i b) (i + 1) bs

/-! ### Numbers made of bytes (spec/00_scope.md R14, R15) -/

/-- be16(a, b) = a * 256 + b. -/
def be16 (a b : Byte) : Word16 := BitVec.ofNat 16 (a.toNat * 256 + b.toNat)

/-- le16(a, b) = a + 256 * b. -/
def le16 (a b : Byte) : Word16 := BitVec.ofNat 16 (a.toNat + 256 * b.toNat)

/-- trunc to the checksum width: 2^8 or 2^16 (R133). -/
def truncSum (cw : Nat) (v : Word16) : Word16 := if cw = 1 then v &&& 0x00FF#16 else v

/-- The running sum over the span in an accumulator of the checksum's width, wrapping at each addition (R133). -/
def runningSum (cw : Nat) (acc : Word16) : List Byte → Word16
  | [] => acc
  | b :: bs => runningSum cw (truncSum cw (acc + b.setWidth 16)) bs

/-! ### The operands (R82) -/

/-- FB[0..H), the actual header (R131). -/
def actualHeader (c : FrameLayout) (fb : Memory) : List Byte := memRead fb 0 c.h

/-- sum(FB, layout) (R133). -/
def computedSum (c : FrameLayout) (fb : Memory) : Word16 :=
  runningSum c.cw 0#16 (memRead fb c.csStart (c.csEnd - c.csStart))

/-- rx(FB, layout) (R134, spec/20_memory.md R53). -/
def receivedSum (c : FrameLayout) (fb : Memory) : Word16 :=
  if c.cw = 1 then (fbByte fb c.ctOff).setWidth 16
  else match c.cend with
    | .big => be16 (fbByte fb c.ctOff) (fbByte fb (c.ctOff + 1))
    | .little => le16 (fbByte fb c.ctOff) (fbByte fb (c.ctOff + 1))

/-- FB[V_HI] * 256 + FB[V_LO] (R139, spec/20_memory.md R54). -/
def measurement (c : FrameLayout) (fb : Memory) : Word16 := be16 (fbByte fb c.vHi) (fbByte fb c.vLo)

/-! ### The pure functions of the spec, on a frame as a list of bytes -/

/-- F[i]; a well-formed layout indexes only inside the frame (R56). -/
def frameByte (F : List Byte) (i : Nat) : Byte := F.getD i 0

/-- The true sum of the span's bytes, before reduction (R133). -/
def spanTotal (c : FrameLayout) (F : List Byte) : Nat :=
  (((F.drop c.csStart).take (c.csEnd - c.csStart)).map BitVec.toNat).sum

/-- sum(F, layout), reduced once at the end (R133). -/
def frameSum (c : FrameLayout) (F : List Byte) : Word16 := BitVec.ofNat 16 (spanTotal c F % 2 ^ (8 * c.cw))

/-- rx(F, layout) (R134, R53). -/
def frameTrailer (c : FrameLayout) (F : List Byte) : Word16 :=
  if c.cw = 1 then (frameByte F c.ctOff).setWidth 16
  else match c.cend with
    | .big => be16 (frameByte F c.ctOff) (frameByte F (c.ctOff + 1))
    | .little => le16 (frameByte F c.ctOff) (frameByte F (c.ctOff + 1))

/-- What `validate` returns (R140). -/
inductive Verdict
  | badHeader (expected actual : List Byte)
  | badChecksum (computed received : Word16)
  | measurement (n : Word16)
deriving DecidableEq, Repr

/-- validate(F, layout) (R140). -/
def validateFrame (c : FrameLayout) (F : List Byte) : Verdict :=
  if F.take c.h ≠ c.hdr then .badHeader c.hdr (F.take c.h)
  else if frameSum c F ≠ frameTrailer c F then .badChecksum (frameSum c F) (frameTrailer c F)
  else .measurement (be16 (frameByte F c.vHi) (frameByte F c.vLo))

/-- What `acquire_frame` returns (R117). -/
inductive Acquired
  | frame (F : List Byte)
  | transportIncomplete
  | transportError
deriving DecidableEq, Repr

/-- acquire_frame as a function of the answer of RDEXACT(L) (R117). -/
def acquireFrame (c : FrameLayout) : ReadResult → Acquired
  | .failed => .transportError
  | .bytes bs => if bs.length < c.l then .transportIncomplete else .frame bs

/-- poll(layout, answer): the reports of one whole cycle (R171). -/
def pollReports (c : FrameLayout) (r : ReadResult) : List Transaction :=
  match acquireFrame c r with
  | .transportError => [.diag .transportError, .publish none]
  | .transportIncomplete => [.diag .transportIncomplete, .publish none]
  | .frame F =>
    match validateFrame c F with
    | .badHeader e a => [.diag (.badHeader e a), .publish none]
    | .badChecksum x y => [.diag (.badChecksum x y), .publish none]
    | .measurement n => [.publish (some n)]

end Sys2Proof.Machine
end

