-- ==== Sys2Proof/Machine/Flags.lean ====
section
/-! DEFINITION. The conditions behind the flags HOK and SOK (spec/10_state.md R32), the failure kind's codes
(spec/60_exceptions.md R201) and the sink port's valid bit (spec/60_exceptions.md R225). No arithmetic writes a flag
(R32, R137). -/

namespace Sys2Proof.Machine

/-- Condition (b) of the frame invariant: every header byte matches (R131). HOK records it. -/
def headerMatches (expected actual : List Byte) : Bool := actual == expected

/-- Condition (c) of the frame invariant: the two sums are equal (R135). SOK records it. -/
def sumsAgree (computed received : Word16) : Bool := computed == received

/-- The 3-bit code of FK (R201). -/
def FailKind.code : FailKind → BitVec 3
  | .none => 0
  | .transportIncomplete => 1
  | .transportError => 2
  | .badHeader => 3
  | .badChecksum => 4
  | .setupFailure => 5

/-- pub_valid (R168, R225); pub_value is the payload's number, and there is none when pub_valid = 0 (U11). -/
def pubValid : Option Word16 → Bool
  | some _ => true
  | none => false

end Sys2Proof.Machine
end

