-- ==== Sys2Proof/Machine/Ops.lean ====
section
/-! DEFINITION. The operations the meanings share: selection, jumps, port transactions, the three transport operations
(spec/20_memory.md R57 to R61), entering failure handling (`raise`, spec/00_scope.md R16) and returning from it
(spec/60_exceptions.md R214). -/

namespace Sys2Proof.Machine

/-! ### Sequencing (spec/10_state.md R26) -/

/-- (LC, ST, PH) is this triple: the condition "selected when" of each operation's rule. -/
def State.isAt (s : State) (lc : Lifecycle) (st : CycleState) (ph : Phase) : Bool :=
  s.lc == lc && s.st == st && s.ph == ph

/-- ST = Idle and PH = 0, in any lifecycle mode (the rows DESCRIBE and WAIT of R100). -/
def State.isIdle (s : State) : Bool := s.st == .idle && s.ph == .p0

/-- ST <- st ; PH <- ph. -/
def State.goTo (s : State) (st : CycleState) (ph : Phase) : State := { s with st := st, ph := ph }

/-- An operation runs where its dispatch word selects it; elsewhere it has no meaning (R101; log entry 12). -/
def whenSelected (sel : Bool) (r : Result) : Result := if sel then r else .refused .notSelected

/-- The next operation of a path runs if the state reached selects it; otherwise the path ends there (R103; log
entry 8). -/
def thenIf (r : Result) (sel : State → Bool) (f : State → Result) : Result :=
  match r with
  | .next s => if sel s then f s else .next s
  | .fault e => .fault e
  | .refused e => .refused e

/-! ### Ports -/

/-- One port transaction is made. -/
def State.emit (s : State) (t : Transaction) : State := { s with out := s.out ++ [t] }

/-- The input of this step is used up. -/
def State.advance (s : State) : State := { s with inputs := s.inputs.tail }

/-- The transport is replaced by what it has become. -/
def State.setTransport (s : State) (tr : Transport) : State := { s with transport := tr }

/-! ### The transport (R57 to R62, R68) -/

/-- The buffered bytes, oldest first: what has arrived beyond the position p (R61). -/
def Transport.buffer (tr : Transport) : List Byte := tr.received.drop tr.consumed

/-- Bytes arrive (R68). -/
def Transport.deliver (tr : Transport) (bs : List Byte) : Transport := { tr with received := tr.received ++ bs }

/-- The next burst of the script arrives (log entry 5). -/
def Transport.arrive (tr : Transport) : Transport :=
  match tr.arrivals with
  | [] => tr.deliver tr.steady
  | b :: bs => { tr.deliver b with arrivals := bs }

/-- `n` bytes leave the stream, no more than there are. -/
def Transport.consume (tr : Transport) (n : Nat) : Transport :=
  { tr with consumed := tr.consumed + min n tr.buffer.length }

/-- AVAIL() (R57): how many bytes are buffered at the moment of the call; no side effect. -/
def avail (s : State) : Nat × State :=
  let s' := s.setTransport s.transport.arrive
  (s'.transport.buffer.length, s'.emit (.avail s'.transport.buffer.length))

/-- RDBYTE() (R58): removes the oldest buffered byte and returns it; no meaning on an empty transport (U6). -/
def rdbyte (s : State) : Option (Byte × State) :=
  match s.transport.buffer with
  | [] => none
  | b :: _ => some (b, (s.setTransport (s.transport.consume 1)).emit (.rdbyte b))

/-- What RDEXACT comes to in one step: it has not answered yet, or it has answered. -/
inductive ReadStep
  | held (s : State)
  | answered (r : ReadResult) (s : State)
deriving DecidableEq, Repr

/-- The answer given, taken off the script. -/
def Transport.answerTaken (tr : Transport) : Transport := { tr with answers := tr.answers.tail }

/-- RDEXACT(n) (R59, R61): the oldest k bytes, k at most n and at most what has arrived, or a transport error. While it is
held nothing of the call is kept, so a RESET then drops it (DESIGN CHOICE; log entry 26). -/
def rdexact (n : Nat) (s : State) : ReadStep :=
  let tr := s.transport.arrive
  match tr.answers with
  | [] => .held (s.setTransport tr)
  | .hold :: _ => .held (s.setTransport tr.answerTaken)
  | .ok k :: _ =>
    let bs := tr.buffer.take (min k n)
    .answered (.bytes bs) ((s.setTransport (tr.answerTaken.consume (min k n))).emit (.rdexact n (.bytes bs)))
  | .failed lost :: _ =>
    .answered .failed ((s.setTransport (tr.answerTaken.consume lost)).emit (.rdexact n .failed))

/-! ### Failures (spec/60_exceptions.md) -/

/-- The kind of a record (R200, R201). -/
def Record.kind : Record → FailKind
  | .transportIncomplete => .transportIncomplete
  | .transportError => .transportError
  | .badHeader _ _ => .badHeader
  | .badChecksum _ _ => .badChecksum
  | .setupFailure => .setupFailure

/-- raise K(info) (spec/00_scope.md R16): FK, DA and DB as R205 says, kind by kind, then ST <- Reporting, PH <- 0.
OUTV is not written; it is 0 since TICK (log entry 18). -/
def raise (r : Record) (s : State) : State :=
  let s' := { s with fk := r.kind }
  match r with
  | .badHeader e a => { s' with da := some (.bytes e), db := some (.bytes a) }.goTo .reporting .p0
  | .badChecksum c v => { s' with da := some (.sum c), db := some (.sum v) }.goTo .reporting .p0
  | .transportIncomplete | .transportError | .setupFailure => s'.goTo .reporting .p0

/-- The H header bytes that DA or DB holds (R33); free values where it holds none (log entry 2). -/
def diagBytes (h : Nat) (r : DiagReg) : Option DiagVal → List Byte
  | some (.bytes bs) => bs
  | some (.sum _) | none => (List.range h).map (Config.unwrittenHeaderByte r)

/-- The sum that DA or DB holds, below 2^(8*CW) (R33); a free value where it holds none (log entry 2). -/
def diagSum (cw : Nat) (r : DiagReg) : Option DiagVal → Word16
  | some (.sum v) => v
  | some (.bytes _) | none => truncSum cw (Config.unwrittenSum r)

/-- record(FK, DA, DB) (R229); a free value for FK = None, of which R229 states none (log entry 19). -/
def recordOf (c : FrameLayout) (fk : FailKind) (da db : Option DiagVal) : Record :=
  match fk with
  | .transportIncomplete => .transportIncomplete
  | .transportError => .transportError
  | .badHeader => .badHeader (diagBytes c.h .da da) (diagBytes c.h .db db)
  | .badChecksum => .badChecksum (diagSum c.cw .da da) (diagSum c.cw .db db)
  | .setupFailure => .setupFailure
  | .none => Config.unstatedRecord da db

/-- The data-path and diagnostic registers hold no value from here on (spec/10_state.md R34). -/
def State.dropData (s : State) : State :=
  { s with fb := [], cnt := none, acc := none, rxsum := none, meas := none, da := none, db := none }

/-- The cycle ends: ST <- Idle, PH <- 0, and the data path dies (R168, R214). -/
def endCycle (s : State) : State := s.dropData.goTo .idle .p0

end Sys2Proof.Machine
end

