-- ==== Sys2Proof/Machine/FrameFormat.lean ====
section
/-! DEFINITION. FRAME_A (spec/30_encoding.md R80, R81), "not an operation": a frame of layout A's format on the wire. -/

namespace Sys2Proof.Machine

/-- Bytes arrive at the transport; no register of the block changes and no port transaction happens
(spec/20_memory.md R61, R68). -/
def deliverBytes (bs : List Byte) (s : State) : State := s.setTransport (s.transport.deliver bs)

/-- FRAME_A (R81): its 32 bytes arrive at the transport in order, index 0 first (log entry 9). -/
def execFrameA (a : List Byte) (h l : Byte) (b : List Byte) (c d : Byte) (s : State) : Result :=
  .next (deliverBytes (frameABytes a h l b c d) s)

end Sys2Proof.Machine
end

