-- ==== Sys2Proof/Machine/LifecycleOps.lean ====
section
/-! DEFINITION. The lifecycle operations (spec/44_lifecycle.md): RESET, SETUP, DESCRIBE. -/

namespace Sys2Proof.Machine

/-- RESET (R181, R37): selected whatever the dispatch word. The layout, the transport and the transactions already made
stay as they are; a call of RDEXACT on which READ holds is dropped (DESIGN CHOICE; log entry 26). -/
def execReset (s : State) : Result :=
  .next ({ s.dropData with
    lc := .uninit, hok := false, sok := false, outv := false, fk := .none }.goTo .idle .p0)

/-- SETUP (R183). -/
def execSetup (transportOk : Bool) (s : State) : Result :=
  whenSelected (s.isAt .uninit .idle .p0) <|
    if transportOk then .next { s with lc := .ready }
    else .next { ({ s with fk := .setupFailure }.emit (.diag .setupFailure)) with lc := .failed }

/-- DESCRIBE (R188): a text that depends on the layout and LC only is returned; no register changes. -/
def execDescribe (s : State) : Result :=
  whenSelected s.isIdle (.next (s.emit (.describe (Config.describeText s.layout.raw s.lc))))

end Sys2Proof.Machine
end

