-- ==== Sys2Proof/Machine/FrameReader.lean ====
section
/-! DEFINITION. FrameReader (spec/41_frame_reader.md): FLUSH, READ and the pseudo-operation ACQUIRE. -/

namespace Sys2Proof.Machine

/-- FLUSH (R111), one iteration of its loop a step, the form R257 gives so that a flush that never ends is an infinite
execution: `if AVAIL() > 0 then RDBYTE() else PH <- 1` (log entry 7). -/
def execFlush (s : State) : Result :=
  whenSelected (s.isAt .ready .reading .p0) <|
    match avail s with
    | (0, s') => .next (s'.goTo .reading .p1)
    | (_ + 1, s') =>
      match rdbyte s' with
      | some (_, s'') => .next s''
      | none => .refused .readByteFromEmpty

/-- CNT <- k, then either the incomplete read is raised or the bytes become the frame (R114 to R116). -/
def acceptRead (bs : List Byte) (s : State) : State :=
  let s' := { s with cnt := some (BitVec.ofNat 16 bs.length) }
  if bs.length < s.layout.raw.l then raise .transportIncomplete s'
  else { s' with fb := storeBytes s'.fb 0 bs }.goTo .validating .p0

/-- READ (R114), with the failures R115 and R118; it holds while the transport has not answered (R257). -/
def execRead (s : State) : Result :=
  whenSelected (s.isAt .ready .reading .p1) <|
    match rdexact s.layout.raw.l s with
    | .held s' => .next s'
    | .answered .failed s' => .next (raise .transportError s')
    | .answered (.bytes bs) s' => .next (acceptRead bs s')

/-- FLUSH until it ends, or for `fuel` iterations. -/
def flushAll : Nat → State → Result
  | 0, s => .next s
  | n + 1, s => thenIf (execFlush s) (·.isAt .ready .reading .p0) (flushAll n)

/-- READ until the transport has answered, or for `fuel` steps. -/
def readAll : Nat → State → Result
  | 0, s => .next s
  | n + 1, s => thenIf (execRead s) (·.isAt .ready .reading .p1) (readAll n)

/-- Enough iterations for every flush that ends under the transport's script: one for each byte that can be discarded
and one for each burst, and one more (log entry 8). -/
def Transport.flushFuel (tr : Transport) : Nat :=
  tr.buffer.length + tr.arrivals.flatten.length + tr.arrivals.length + 1

/-- ACQUIRE = FLUSH ; READ (R103, R117), as far as the transport lets it go: a flush that never ends leaves the instance
in Reading, phase 0, and a read that is never answered leaves it in Reading, phase 1 (R247). -/
def execAcquire (s : State) : Result :=
  whenSelected (s.isAt .ready .reading .p0) <|
    thenIf (flushAll s.transport.flushFuel s) (·.isAt .ready .reading .p1) fun s' =>
      readAll (s'.transport.answers.length + 1) s'

end Sys2Proof.Machine
end

