-- ==== Sys2Proof/Machine/FrameValidator.lean ====
section
/-! DEFINITION. FrameValidator (spec/42_frame_validator.md): HDRCHK, SUMCHK, EXTRACT and the pseudo-operation VALIDATE. -/

namespace Sys2Proof.Machine

/-- HDRCHK (R131, R132). -/
def execHdrchk (s : State) : Result :=
  whenSelected (s.isAt .ready .validating .p0) <|
    let actual := actualHeader s.layout.raw s.fb
    if headerMatches s.layout.raw.hdr actual then .next ({ s with hok := true }.goTo .validating .p1)
    else .next (raise (.badHeader s.layout.raw.hdr actual) s)

/-- ACC and RXSUM are written, then compared (R135). -/
def compareSums (computed received : Word16) (s : State) : State :=
  let s' := { s with acc := some computed, rxsum := some received }
  if sumsAgree computed received then { s' with sok := true }.goTo .validating .p2
  else raise (.badChecksum computed received) s'

/-- SUMCHK (R133 to R136). -/
def execSumchk (s : State) : Result :=
  whenSelected (s.isAt .ready .validating .p1) <|
    .next (compareSums (computedSum s.layout.raw s.fb) (receivedSum s.layout.raw s.fb) s)

/-- EXTRACT (R139). -/
def execExtract (s : State) : Result :=
  whenSelected (s.isAt .ready .validating .p2) <|
    .next ({ s with meas := some (measurement s.layout.raw s.fb), outv := true }.goTo .reporting .p0)

/-- VALIDATE = HDRCHK ; SUMCHK ; EXTRACT, each later step only if the earlier did not raise (R103, R140). -/
def execValidate (s : State) : Result :=
  whenSelected (s.isAt .ready .validating .p0) <|
    thenIf (thenIf (execHdrchk s) (·.isAt .ready .validating .p1) execSumchk)
      (·.isAt .ready .validating .p2) execExtract

end Sys2Proof.Machine
end

