-- ==== Sys2Proof/Machine/PollCycle.lean ====
section
/-! DEFINITION. The polling and reporting cycle (spec/43_poll_cycle.md): TICK, REPORT, WAIT, the four IGNORE rows and the
pseudo-operation POLL. -/

namespace Sys2Proof.Machine

/-- TICK (R162). -/
def execTick (s : State) : Result :=
  whenSelected (s.isAt .ready .idle .p0) <|
    .next ({ s with hok := false, sok := false, outv := false, fk := .none }.goTo .reading .p0)

/-- REPORT (R168): the record before the invalid marker, or the value; then the cycle ends. -/
def execReport (s : State) : Result :=
  whenSelected (s.isAt .ready .reporting .p0) <|
    if s.outv then .next (endCycle (s.emit (.publish (some (s.meas.getD Config.unwrittenMeas)))))
    else .next (endCycle ((s.emit (.diag (recordOf s.layout.raw s.fk s.da s.db))).emit (.publish none)))

/-- WAIT (R170): nothing happens. -/
def execWait (s : State) : Result := whenSelected s.isIdle (.next s)

/-- A command that is not accepted: no register changes, no port transaction happens (R161). -/
def ignoreCommand (lc : Lifecycle) (s : State) : Result := whenSelected (s.isAt lc .idle .p0) (.next s)

/-- IGNORE, SETUP when Ready (R161 (d)). -/
def execIgnoreSetupReady (s : State) : Result := ignoreCommand .ready s

/-- IGNORE, SETUP when Failed (R161 (d)). -/
def execIgnoreSetupFailed (s : State) : Result := ignoreCommand .failed s

/-- IGNORE, TICK when Uninit (R161 (c)). -/
def execIgnoreTickUninit (s : State) : Result := ignoreCommand .uninit s

/-- IGNORE, TICK when Failed (R161 (b)). -/
def execIgnoreTickFailed (s : State) : Result := ignoreCommand .failed s

/-- POLL = TICK ; ACQUIRE ; VALIDATE (only if ACQUIRE produced a frame) ; REPORT (R103, R171), as far as the transport
lets ACQUIRE go. -/
def execPoll (s : State) : Result :=
  whenSelected (s.isAt .ready .idle .p0) <|
    thenIf
      (thenIf (thenIf (execTick s) (·.isAt .ready .reading .p0) execAcquire)
        (·.isAt .ready .validating .p0) execValidate)
      (·.isAt .ready .reporting .p0) execReport

end Sys2Proof.Machine
end

