-- ==== Sys2Proof/Machine/Dispatch.lean ====
section
/-! DEFINITION. One arm per operation, each one call of its meaning. -/

namespace Sys2Proof.Machine

def exec (i : Instr) (s : State) : Host.Outcome State Fault Refusal :=
  match i with
  | .reset => Sys2Proof.Machine.execReset s
  | .setup transportOk => Sys2Proof.Machine.execSetup transportOk s
  | .tick => Sys2Proof.Machine.execTick s
  | .describe => Sys2Proof.Machine.execDescribe s
  | .wait => Sys2Proof.Machine.execWait s
  | .ignoreSetupReady => Sys2Proof.Machine.execIgnoreSetupReady s
  | .ignoreSetupFailed => Sys2Proof.Machine.execIgnoreSetupFailed s
  | .ignoreTickUninit => Sys2Proof.Machine.execIgnoreTickUninit s
  | .ignoreTickFailed => Sys2Proof.Machine.execIgnoreTickFailed s
  | .flush => Sys2Proof.Machine.execFlush s
  | .read => Sys2Proof.Machine.execRead s
  | .hdrchk => Sys2Proof.Machine.execHdrchk s
  | .sumchk => Sys2Proof.Machine.execSumchk s
  | .extract => Sys2Proof.Machine.execExtract s
  | .report => Sys2Proof.Machine.execReport s
  | .acquire => Sys2Proof.Machine.execAcquire s
  | .validate => Sys2Proof.Machine.execValidate s
  | .poll => Sys2Proof.Machine.execPoll s
  | .frameA a h l b c d => Sys2Proof.Machine.execFrameA a h l b c d s

end Sys2Proof.Machine
end

