-- ==== Sys2Proof/Machine/Fetch.lean ====
section
/-! DEFINITION. How the next operation is presented: the dispatch word made of the sequencing state and the command port
(spec/30_encoding.md R100), a path, or bytes on the transport; and placing a word so that it is the next one fetched
(log entry 16). -/

namespace Sys2Proof.Machine

/-- The dispatch word of a state under a command, as the command port presents it (R100, R223). -/
def dispatchPresentation (s : State) (c : Command) : Presentation :=
  presentXdw (xdwOf c.rst s.lc s.st s.ph c.ev) c.ev.okBit

/-- No command and the RESET line low: what an exhausted list of inputs presents (R170). -/
def Command.idle : Command := ⟨false, .none⟩

/-- What is presented to the decoder in this step. -/
def fetch (s : State) : Presentation :=
  match s.inputs with
  | [] => dispatchPresentation s Command.idle
  | .command c :: _ => dispatchPresentation s c
  | .path bs :: _ => ⟨.path, bs⟩
  | .arrival bs :: _ => ⟨.transport, bs⟩

/-- Bytes that are no FRAME_A arrive all the same (R68); any other presentation without an operation has no meaning
(R101, U9). -/
def undecoded (p : Presentation) (s : State) : Result :=
  match p.port with
  | .transport => .next { s with transport := s.transport.deliver p.bytes }
  | .command | .path => .refused .noOperationSelected

/-! ### Placing a word -/

/-- The lifecycle value with this code (R99). -/
def lifecycleOfCode (c : BitVec 2) : Option Lifecycle :=
  if c = 0#2 then some .uninit else if c = 1#2 then some .ready else if c = 2#2 then some .failed else none

/-- The cycle state with this code (R99). -/
def cycleStateOfCode (c : BitVec 2) : CycleState :=
  if c = 0#2 then .idle else if c = 1#2 then .reading else if c = 2#2 then .validating else .reporting

/-- The phase with this code (R99). -/
def phaseOfCode (c : BitVec 2) : Option Phase :=
  if c = 0#2 then some .p0 else if c = 1#2 then some .p1 else if c = 2#2 then some .p2 else none

/-- The command with this EV and this bit `transport_ok` (R99, R223). -/
def eventOfCode (c : BitVec 2) (ok : Bool) : Event :=
  if c = 0#2 then .none else if c = 1#2 then .setup ok else if c = 2#2 then .tick else .describe

/-- FB[i], ..., FB[i+n-1] are all written. -/
def allWritten (m : Memory) (i : Nat) : Nat → Bool
  | 0 => true
  | n + 1 => (Memory.read m i).isSome && allWritten m (i + 1) n

/-- What the sequencing state presupposes of the data path, supplied where it is absent: in Validating a whole frame
(R130: CNT = L and FB all written), in Reporting an outcome (R168). -/
def supplyData (s : State) : State :=
  match s.st with
  | .idle | .reading => s
  | .validating =>
    if allWritten s.fb 0 s.layout.raw.l then s
    else
      { s with
        fb := storeBytes [] 0 (List.replicate s.layout.raw.l 0), cnt := some (BitVec.ofNat 16 s.layout.raw.l) }
  | .reporting =>
    let hasOutcome :=
      if s.outv then s.meas.isSome
      else match s.fk with
        | .none => false
        | .transportIncomplete | .transportError | .setupFailure => true
        | .badHeader | .badChecksum => s.da.isSome && s.db.isSome
    if hasOutcome then s else { s with outv := false, fk := .transportIncomplete, cnt := some 0 }

/-- The sequencing state that a dispatch word names; unchanged where it names none. -/
def placeSequencing (x : Xdw) (s : State) : State :=
  match lifecycleOfCode (x.extractLsb' 6 2), phaseOfCode (x.extractLsb' 2 2) with
  | some lc, some ph => supplyData { s with lc := lc, st := cycleStateOfCode (x.extractLsb' 4 2), ph := ph }
  | _, _ => s

/-- An input is presented first. -/
def presentInput (i : Input) (s : State) : State := { s with inputs := i :: s.inputs }

/-- The presentation `p` stands where the next step fetches. -/
def placePresentation (p : Presentation) (s : State) : State :=
  match p.port with
  | .command =>
    let n := leNat p.bytes
    let x : Xdw := BitVec.ofNat 9 n
    presentInput (.command ⟨x.getLsbD 8, eventOfCode (x.extractLsb' 0 2) (n.testBit 9)⟩) (placeSequencing x s)
  | .path => presentInput (.path p.bytes) (placeSequencing (BitVec.ofNat 9 (leNat p.bytes)) s)
  | .transport => presentInput (.arrival p.bytes) s

end Sys2Proof.Machine
end

