-- ==== Sys2Proof/Machine/Step.lean ====
section
/-! DEFINITION. One step, a run of several, and placing the next word. -/

namespace Sys2Proof.Machine

/-- One step: what is presented is decoded, the input is used up, and the operation selected is performed
(spec/30_encoding.md R100). -/
def step (s : State) : Host.Outcome State Fault Refusal :=
  match decode (fetch s) with
  | .ok i => exec i s.advance
  | .error _ => undecoded (fetch s) s.advance

/-- `n` steps, stopping at the first fault or refusal. -/
def run : Nat → State → Host.Outcome State Fault Refusal
  | 0, s => .next s
  | n + 1, s =>
    match step s with
    | .next t => run n t
    | .fault e => .fault e
    | .refused e => .refused e

/-- `s` with a word, numbered as spec/opcode_table.json numbers it, standing where `step` fetches (log entry 16). -/
def State.withFetchWord (s : State) (nbits w : Nat) : State := placePresentation (tablePresentation nbits w) s

end Sys2Proof.Machine
end

