-- ==== Sys2Proof/Machine/Instances.lean ====
section
/-! DEFINITION. Several instances side by side (spec/60_exceptions.md R227): a list of states, one of which takes a step. -/

namespace Sys2Proof.Machine

/-- Instance `i` takes a step, if there is one and its step answers a next state; the list is then the same but for it. -/
def stepInstance (i : Nat) (sys : List State) : Option (List State) :=
  match sys[i]? with
  | none => none
  | some s =>
    match step s with
    | .next t => some (sys.set i t)
    | .fault _ | .refused _ => none

end Sys2Proof.Machine
end

