-- ==== Sys2Proof/Safety.lean ====
section
/-! DEFINITION. What claims are stated in: the invariant of a safe run, the duties of the transport, the views of the
transactions made, and the sequences of transactions the spec names. -/

namespace Sys2Proof.Machine

/-! ### The invariant -/

/-- No data-path or diagnostic register holds a value (spec/10_state.md R34). -/
structure NoData (s : State) : Prop where
  fb : s.fb = []
  cnt : s.cnt = none
  acc : s.acc = none
  rxsum : s.rxsum = none
  meas : s.meas = none
  da : s.da = none
  db : s.db = none

/-- Every index below L of FB reads as the byte of F at that index, and F has L bytes (R27). -/
structure FrameIn (s : State) (F : List Byte) : Prop where
  length : F.length = s.layout.raw.l
  bytes : ∀ i, i < s.layout.raw.l → Memory.read s.fb i = F[i]?

/-- FB holds the whole frame F and CNT is L (R27, R28). -/
structure HoldsFrame (s : State) (F : List Byte) : Prop where
  length : F.length = s.layout.raw.l
  fb : s.fb = storeBytes [] 0 F
  cnt : s.cnt = some (BitVec.ofNat 16 s.layout.raw.l)

/-- No failure is recorded (R33). -/
structure NoFailure (s : State) : Prop where
  fk : s.fk = .none
  da : s.da = none
  db : s.db = none

/-- ACC and RXSUM hold the two sums of F (R29, R30). -/
structure HoldsSums (s : State) (F : List Byte) : Prop where
  acc : s.acc = some (frameSum s.layout.raw F)
  rxsum : s.rxsum = some (frameTrailer s.layout.raw F)

/-- ACC and RXSUM hold no value. -/
structure NoSums (s : State) : Prop where
  acc : s.acc = none
  rxsum : s.rxsum = none

/-- HOK, SOK, OUTV have these values (R32). -/
structure Flags (s : State) (hok sok outv : Bool) : Prop where
  hok : s.hok = hok
  sok : s.sok = sok
  outv : s.outv = outv

/-- Between cycles (R34, R37): the data path holds nothing, and FK agrees with the lifecycle mode. -/
structure IdleData (s : State) : Prop where
  noData : NoData s
  uninit : s.lc = .uninit → s.fk = .none ∧ Flags s false false false
  failed : s.lc = .failed → s.fk = .setupFailure ∧ Flags s false false false

/-- In Reading: nothing is held and TICK has cleared the status (R162). -/
structure ReadingData (s : State) : Prop where
  noData : NoData s
  flags : Flags s false false false
  fk : s.fk = .none

/-- In Validating with frame F: what the phases passed have established (R130, R131, R135). -/
structure ValidatingData (s : State) (F : List Byte) : Prop where
  frame : HoldsFrame s F
  meas : s.meas = none
  noFailure : NoFailure s
  p0 : s.ph = .p0 → NoSums s ∧ Flags s false false false
  p1 : s.ph = .p1 → F.take s.layout.raw.h = s.layout.raw.hdr ∧ NoSums s ∧ Flags s true false false
  p2 : s.ph = .p2 → F.take s.layout.raw.h = s.layout.raw.hdr ∧ frameSum s.layout.raw F = frameTrailer s.layout.raw F ∧ HoldsSums s F ∧
    Flags s true true false

/-- In Reporting with a value (R32): the frame is valid and MEAS is its measurement. -/
structure ValueData (s : State) (F : List Byte) : Prop where
  frame : HoldsFrame s F
  sums : HoldsSums s F
  flags : Flags s true true true
  noFailure : NoFailure s
  meas : ∃ n, s.meas = some n ∧ validateFrame s.layout.raw F = .measurement n

/-- In Reporting after HDRCHK raised (R205, R212). -/
structure BadHeaderData (s : State) (F : List Byte) : Prop where
  frame : HoldsFrame s F
  noSums : NoSums s
  meas : s.meas = none
  flags : Flags s false false false
  fk : s.fk = .badHeader
  da : s.da = some (.bytes s.layout.raw.hdr)
  db : s.db = some (.bytes (F.take s.layout.raw.h))
  verdict : validateFrame s.layout.raw F = .badHeader s.layout.raw.hdr (F.take s.layout.raw.h)

/-- In Reporting after SUMCHK raised (R205, R212). -/
structure BadChecksumData (s : State) (F : List Byte) : Prop where
  frame : HoldsFrame s F
  sums : HoldsSums s F
  meas : s.meas = none
  flags : Flags s true false false
  fk : s.fk = .badChecksum
  da : s.da = some (.sum (frameSum s.layout.raw F))
  db : s.db = some (.sum (frameTrailer s.layout.raw F))
  verdict : validateFrame s.layout.raw F = .badChecksum (frameSum s.layout.raw F) (frameTrailer s.layout.raw F)

/-- In Reporting after READ raised (R115, R118, R205): no frame; after an incomplete read CNT is its count. -/
structure TransportFailureData (s : State) : Prop where
  fb : s.fb = []
  noSums : NoSums s
  meas : s.meas = none
  flags : Flags s false false false
  da : s.da = none
  db : s.db = none
  kind : (s.fk = .transportError ∧ s.cnt = none) ∨
    (s.fk = .transportIncomplete ∧ ∃ k, k < s.layout.raw.l ∧ s.cnt = some (BitVec.ofNat 16 k))

/-- In Reporting: exactly one outcome stands ready to be reported (R166, R210). -/
inductive ReportingData (s : State) : Prop
  | value (F : List Byte) (h : ValueData s F)
  | badHeader (F : List Byte) (h : BadHeaderData s F)
  | badChecksum (F : List Byte) (h : BadChecksumData s F)
  | transport (h : TransportFailureData s)

/-- The invariant of a safe run: the rules of R26, the transport's position inside what has arrived (R61), and what the
data path and the status hold in each state of the cycle (R32 to R34). -/
structure Inv (s : State) : Prop where
  busyReady : s.st ≠ .idle → s.lc = .ready
  phaseZero : s.st = .idle ∨ s.st = .reporting → s.ph = .p0
  phaseReading : s.st = .reading → s.ph ≠ .p2
  position : s.transport.consumed ≤ s.transport.received.length
  idle : s.st = .idle → IdleData s
  reading : s.st = .reading → ReadingData s
  validating : s.st = .validating → ∃ F, ValidatingData s F
  reporting : s.st = .reporting → ReportingData s

/-! ### The environment -/

/-- Every input still to come is a command with the RESET line low. -/
def OnlyCommands (inputs : List Input) : Prop := ∀ i ∈ inputs, ∃ ev, i = .command ⟨false, ev⟩

/-- No input still to come asserts the RESET line. -/
def NoReset (inputs : List Input) : Prop := ∀ i ∈ inputs, ∀ ev, i ≠ .command ⟨true, ev⟩

/-- No input still to come is a request for a path. -/
def NoPath (inputs : List Input) : Prop := ∀ i ∈ inputs, ∀ bs, i ≠ .path bs

/-- The transport after one iteration of FLUSH that finds a byte: a burst arrives, the oldest byte leaves. -/
def Transport.discardOne (tr : Transport) : Transport := tr.arrive.consume 1

/-- The transport after `m` such iterations. -/
def Transport.discard : Nat → Transport → Transport
  | 0, tr => tr
  | m + 1, tr => Transport.discard m tr.discardOne

/-- Duty (a) of R247: some AVAIL() during FLUSH returns 0. -/
def FlushEnds (tr : Transport) : Prop := ∃ m, (Transport.discard m tr).arrive.buffer = []

/-- Duty (b) of R247: RDEXACT returns; some answer is more than a hold. -/
def ReadReturns (tr : Transport) : Prop := ∃ a ∈ tr.answers, a ≠ .hold

/-! ### Views of the transactions made -/

/-- PUBLISH and DIAG, in order: what the sink and the diagnostic port saw. -/
def reports (out : List Transaction) : List Transaction :=
  out.filter fun t => match t with
    | .publish _ | .diag _ => true
    | .avail _ | .rdbyte _ | .rdexact _ _ | .describe _ => false

/-- The PUBLISH transactions, in order. -/
def publishes (out : List Transaction) : List Transaction :=
  out.filter fun t => match t with
    | .publish _ => true
    | .diag _ | .avail _ | .rdbyte _ | .rdexact _ _ | .describe _ => false

/-- The transport transactions, in order. -/
def transportOps (out : List Transaction) : List Transaction :=
  out.filter fun t => match t with
    | .avail _ | .rdbyte _ | .rdexact _ _ => true
    | .publish _ | .diag _ | .describe _ => false

/-- The answers of RDEXACT, in order. -/
def readResults (out : List Transaction) : List ReadResult :=
  out.filterMap fun t => match t with
    | .rdexact _ r => some r
    | .avail _ | .rdbyte _ | .publish _ | .diag _ | .describe _ => none

/-- The transactions of a FLUSH that discards `m` bytes (R111): AVAIL and RDBYTE in turn, then one more AVAIL. -/
def flushTransactions : Nat → Transport → List Transaction
  | 0, tr => [.avail tr.arrive.buffer.length]
  | m + 1, tr =>
    .avail tr.arrive.buffer.length :: .rdbyte (tr.arrive.buffer.headD 0) :: flushTransactions m tr.discardOne

/-- `n` steps of FLUSH, as the machine takes them when the dispatch word selects it each time. -/
def flushSteps : Nat → State → Result
  | 0, s => .next s
  | n + 1, s =>
    match exec .flush s with
    | .next t => flushSteps n t
    | .fault e => .fault e
    | .refused e => .refused e

/-- The state after a REPORT that makes these reports (R168). -/
def afterReport (s : State) (rs : List Transaction) : State :=
  { s with st := .idle, ph := .p0, fb := [], cnt := none, acc := none, rxsum := none, meas := none, da := none,
           db := none, out := s.out ++ rs }

/-! ### Selection in words (spec/30_encoding.md R100, the column "in words") -/

/-- The operation selected by the RESET line, LC, ST, PH and the command presented; none for the triples R101 calls
unreachable. -/
def selectionInWords : Bool → Lifecycle → CycleState → Phase → Event → Option Instr
  | true, _, _, _, _ => some .reset
  | false, lc, .idle, .p0, ev =>
    match ev, lc with
    | .none, _ => some .wait
    | .describe, _ => some .describe
    | .setup ok, .uninit => some (.setup ok)
    | .setup _, .ready => some .ignoreSetupReady
    | .setup _, .failed => some .ignoreSetupFailed
    | .tick, .uninit => some .ignoreTickUninit
    | .tick, .ready => some .tick
    | .tick, .failed => some .ignoreTickFailed
  | false, .ready, .reading, .p0, _ => some .flush
  | false, .ready, .reading, .p1, _ => some .read
  | false, .ready, .validating, .p0, _ => some .hdrchk
  | false, .ready, .validating, .p1, _ => some .sumchk
  | false, .ready, .validating, .p2, _ => some .extract
  | false, .ready, .reporting, .p0, _ => some .report
  | false, _, _, _, _ => none

/-- Where each operation is selected ("Selected when" of its rule); a pseudo-operation where its first operation is;
RESET and FRAME_A everywhere. -/
def selectedIn : Instr → State → Prop
  | .reset, _ => True
  | .setup _, s => s.lc = .uninit ∧ s.st = .idle ∧ s.ph = .p0
  | .tick, s => s.lc = .ready ∧ s.st = .idle ∧ s.ph = .p0
  | .describe, s => s.st = .idle ∧ s.ph = .p0
  | .wait, s => s.st = .idle ∧ s.ph = .p0
  | .ignoreSetupReady, s => s.lc = .ready ∧ s.st = .idle ∧ s.ph = .p0
  | .ignoreSetupFailed, s => s.lc = .failed ∧ s.st = .idle ∧ s.ph = .p0
  | .ignoreTickUninit, s => s.lc = .uninit ∧ s.st = .idle ∧ s.ph = .p0
  | .ignoreTickFailed, s => s.lc = .failed ∧ s.st = .idle ∧ s.ph = .p0
  | .flush, s => s.lc = .ready ∧ s.st = .reading ∧ s.ph = .p0
  | .read, s => s.lc = .ready ∧ s.st = .reading ∧ s.ph = .p1
  | .hdrchk, s => s.lc = .ready ∧ s.st = .validating ∧ s.ph = .p0
  | .sumchk, s => s.lc = .ready ∧ s.st = .validating ∧ s.ph = .p1
  | .extract, s => s.lc = .ready ∧ s.st = .validating ∧ s.ph = .p2
  | .report, s => s.lc = .ready ∧ s.st = .reporting ∧ s.ph = .p0
  | .acquire, s => s.lc = .ready ∧ s.st = .reading ∧ s.ph = .p0
  | .validate, s => s.lc = .ready ∧ s.st = .validating ∧ s.ph = .p0
  | .poll, s => s.lc = .ready ∧ s.st = .idle ∧ s.ph = .p0
  | .frameA _ _ _ _ _ _, _ => True

/-- The commands R161 accepts. -/
def accepted : Event → State → Prop
  | .none, _ => False
  | .setup _, s => s.lc = .uninit ∧ s.st = .idle
  | .tick, s => s.lc = .ready ∧ s.st = .idle
  | .describe, s => s.st = .idle

/-! ### The edges of the cycle (spec/43_poll_cycle.md R160) -/

/-- The edges of R160, as moves of (ST, PH). -/
def cycleEdges : List ((CycleState × Phase) × (CycleState × Phase)) :=
  [ ((.idle, .p0), (.reading, .p0)),
    ((.reading, .p0), (.reading, .p1)),
    ((.reading, .p1), (.reporting, .p0)),
    ((.reading, .p1), (.validating, .p0)),
    ((.validating, .p0), (.validating, .p1)),
    ((.validating, .p1), (.validating, .p2)),
    ((.validating, .p0), (.reporting, .p0)),
    ((.validating, .p1), (.reporting, .p0)),
    ((.validating, .p2), (.reporting, .p0)),
    ((.reporting, .p0), (.idle, .p0)) ]

end Sys2Proof.Machine
end

