-- ==== Sys2Proof/Certificates/Slice0/Obligations.lean ====
section
/-! DEFINITION. The statements for the provers, each a rule of spec/ or a consequence of rules, about every state and
every operand. -/

open Sys2Proof Sys2Proof.Machine

/-! ### Reset and lifecycle -/

/-- The reset values of spec/10_state.md R37 stand in `State.reset`. The layout, the transport and the lists of inputs
and transactions there are the model's choices (log entries 1, 15 and 23) and are not stated. -/
def Obligations.ResetStateHoldsResetValues : Prop :=
  State.reset.lc = .uninit ∧ State.reset.st = .idle ∧ State.reset.ph = .p0 ∧ State.reset.hok = false ∧
  State.reset.sok = false ∧ State.reset.outv = false ∧ State.reset.fk = .none ∧ NoData State.reset

/-- The invariant holds at reset. -/
def Obligations.ResetMeetsInvariant : Prop := Inv State.reset ∧ Memory.wf State.reset.fb = true

/-- RESET (R181, R37) in every state: the reset values; the layout unchanged; no port transaction; the transport
untouched; no input lost. -/
def Obligations.ResetOperation : Prop :=
  ∀ s : State, ∃ t, exec .reset s = .next t ∧
    t.lc = .uninit ∧ t.st = .idle ∧ t.ph = .p0 ∧ t.hok = false ∧ t.sok = false ∧ t.outv = false ∧ t.fk = .none ∧
    NoData t ∧ t.layout = s.layout ∧ t.transport = s.transport ∧ t.inputs = s.inputs ∧ t.out = s.out

/-- SETUP (R183): Ready on transport_ok = 1; on 0 Failed with FK and one DIAG, no PUBLISH, no transport operation;
presented when LC is not Uninit (and no cycle runs) it is ignored. -/
def Obligations.SetupEntersReadyOrFailed : Prop :=
  (∀ s : State, s.lc = .uninit → s.st = .idle → s.ph = .p0 →
    exec (.setup true) s = .next { s with lc := .ready } ∧
    exec (.setup false) s =
      .next { s with lc := .failed, fk := .setupFailure, out := s.out ++ [.diag .setupFailure] }) ∧
  (∀ (s : State) (ok : Bool) (rest : List Input), s.lc ≠ .uninit → s.st = .idle → s.ph = .p0 →
    s.inputs = .command ⟨false, .setup ok⟩ :: rest → step s = .next { s with inputs := rest })

/-- DESCRIBE (R188): a text that is a function of the layout and LC alone is returned, and nothing else happens;
presented while a cycle is in progress it changes nothing of what the step does. -/
def Obligations.DescribeReturnsText : Prop :=
  (∀ s : State, s.st = .idle → s.ph = .p0 →
    exec .describe s = .next { s with out := s.out ++ [.describe (Config.describeText s.layout.raw s.lc)] }) ∧
  (∀ (s : State) (rest : List Input), Inv s → s.st ≠ .idle →
    step { s with inputs := .command ⟨false, .describe⟩ :: rest } =
      step { s with inputs := .command ⟨false, .none⟩ :: rest })

/-! ### TICK, WAIT, IGNORE -/

/-- TICK (R162): the flags and FK cleared, ST <- Reading, PH <- 0, nothing else; from a state that meets the invariant no
data-path register holds a value then. -/
def Obligations.TickStartsCycle : Prop :=
  ∀ s : State, s.lc = .ready → s.st = .idle → s.ph = .p0 →
    ∃ t, exec .tick s = .next t ∧
      t = { s with hok := false, sok := false, outv := false, fk := .none, st := .reading, ph := .p0 } ∧
      (Inv s → NoData t)

/-- WAIT (R170): nothing happens, and a block to which nothing is presented stays as it is. -/
def Obligations.WaitChangesNothing : Prop :=
  (∀ s : State, s.st = .idle → s.ph = .p0 → exec .wait s = .next s) ∧
  (∀ s : State, s.st = .idle → s.ph = .p0 → s.inputs = [] → step s = .next s)

/-- IGNORE (R161): the four rows change nothing; a command that is not accepted changes no register and makes no port
transaction when idle, and during a cycle the phase operation proceeds as if no command had been presented. A command
that is accepted is performed: TICK by TICK, DESCRIBE by DESCRIBE, SETUP by SETUP with its bit `transport_ok`. -/
def Obligations.IgnoredCommandsLeaveNoTrace : Prop :=
  (∀ s : State, s.st = .idle → s.ph = .p0 →
    (s.lc = .ready → exec .ignoreSetupReady s = .next s) ∧ (s.lc = .failed → exec .ignoreSetupFailed s = .next s) ∧
    (s.lc = .uninit → exec .ignoreTickUninit s = .next s) ∧ (s.lc = .failed → exec .ignoreTickFailed s = .next s)) ∧
  (∀ (s : State) (ev : Event) (rest : List Input), Inv s → ¬ accepted ev s →
    (s.st = .idle → step { s with inputs := .command ⟨false, ev⟩ :: rest } = .next { s with inputs := rest }) ∧
    (s.st ≠ .idle → step { s with inputs := .command ⟨false, ev⟩ :: rest } =
      step { s with inputs := .command ⟨false, .none⟩ :: rest })) ∧
  (∀ (s : State) (rest : List Input), Inv s →
    (accepted .tick s →
      step { s with inputs := .command ⟨false, .tick⟩ :: rest } = exec .tick { s with inputs := rest }) ∧
    (accepted .describe s →
      step { s with inputs := .command ⟨false, .describe⟩ :: rest } = exec .describe { s with inputs := rest }) ∧
    (∀ ok, accepted (.setup ok) s →
      step { s with inputs := .command ⟨false, .setup ok⟩ :: rest } = exec (.setup ok) { s with inputs := rest }))

/-! ### FrameReader -/

/-- One iteration of FLUSH (R257, R57, R58): AVAIL; when it returns 0, PH <- 1; otherwise RDBYTE takes the oldest byte,
which is stored nowhere. Nothing else changes. -/
def Obligations.FlushIteration : Prop :=
  ∀ s : State, s.lc = .ready → s.st = .reading → s.ph = .p0 →
    (s.transport.arrive.buffer = [] → exec .flush s =
      .next { s with ph := .p1, transport := s.transport.arrive, out := s.out ++ [.avail 0] }) ∧
    (∀ b bs, s.transport.arrive.buffer = b :: bs → exec .flush s =
      .next { s with
        transport := { s.transport.arrive with consumed := s.transport.consumed + 1 },
        out := s.out ++ [.avail (bs.length + 1), .rdbyte b] })

/-- FLUSH (R111), the whole loop, for every pattern of arrivals: when the first AVAIL that returns 0 is the one after `m`
bytes, FLUSH makes m + 1 AVAIL and m RDBYTE in turn, writes PH only, and cannot raise. -/
def Obligations.FlushDiscardsUntilEmpty : Prop :=
  ∀ (s : State) (m : Nat), s.lc = .ready → s.st = .reading → s.ph = .p0 →
    (∀ j, j < m → (Transport.discard j s.transport).arrive.buffer ≠ []) →
    (Transport.discard m s.transport).arrive.buffer = [] →
    flushSteps (m + 1) s =
      .next { s with
        ph := .p1, transport := (Transport.discard m s.transport).arrive,
        out := s.out ++ flushTransactions m s.transport }

/-- FLUSH may never end (R113): it ends only on an AVAIL that returns 0; if the transport always has another byte ready,
every run of the block stays in FLUSH and publishes nothing, whatever commands are presented. -/
def Obligations.FlushNeedNotEnd : Prop :=
  (∀ s t : State, exec .flush s = .next t → t.ph = .p1 → t.out = s.out ++ [.avail 0]) ∧
  (∀ (s : State) (n : Nat), s.lc = .ready → s.st = .reading → s.ph = .p0 → OnlyCommands s.inputs →
    (∀ m, (Transport.discard m s.transport).arrive.buffer ≠ []) →
    ∃ t, run n s = .next t ∧ t.st = .reading ∧ t.ph = .p0 ∧ publishes t.out = publishes s.out)

/-- The stale-flush guarantee (R112): whatever is presented after an idle moment, once FLUSH has ended the position is
beyond all that had arrived at that moment, and a frame being validated is a slice of the stream from such a position. -/
def Obligations.StaleBytesNeverEnterFrame : Prop :=
  ∀ (s t : State) (n : Nat), Inv s → s.st = .idle → run n s = .next t →
    (t.st = .reading → t.ph = .p1 → s.transport.received.length ≤ t.transport.consumed) ∧
    (t.st = .validating → ∃ p, s.transport.received.length ≤ p ∧ p + t.layout.raw.l = t.transport.consumed ∧
      ∀ i, i < t.layout.raw.l → Memory.read t.fb i = t.transport.received[p + i]? ∧
        p + i < t.transport.received.length)

/-- READ (R114) with an answer: one RDEXACT(L); CNT <- k; with k = L the bytes are stored in order and Validating is
entered; with fewer, TransportIncomplete is raised; with err = 1, TransportError. Nothing else changes. -/
def Obligations.ReadOperation : Prop :=
  ∀ s : State, s.lc = .ready → s.st = .reading → s.ph = .p1 →
    (∀ (k : Nat) (as : List ReadAnswer) (bs : List Byte), s.transport.answers = .ok k :: as →
      bs = s.transport.arrive.buffer.take (min k s.layout.raw.l) →
      (bs.length = s.layout.raw.l →
        ∃ t, exec .read s = .next t ∧
          t = { s with
            cnt := some (BitVec.ofNat 16 bs.length), fb := t.fb, st := .validating, ph := .p0,
            transport := { s.transport.arrive with answers := as, consumed := s.transport.consumed + bs.length },
            out := s.out ++ [.rdexact s.layout.raw.l (.bytes bs)] } ∧
          ∀ a, Memory.read t.fb a = if a < s.layout.raw.l then bs[a]? else Memory.read s.fb a) ∧
      (bs.length < s.layout.raw.l →
        exec .read s = .next { s with
          cnt := some (BitVec.ofNat 16 bs.length), fk := .transportIncomplete, st := .reporting, ph := .p0,
          transport := { s.transport.arrive with answers := as, consumed := s.transport.consumed + bs.length },
          out := s.out ++ [.rdexact s.layout.raw.l (.bytes bs)] })) ∧
    (∀ (lost : Nat) (as : List ReadAnswer), s.transport.answers = .failed lost :: as →
      exec .read s = .next { s with
        fk := .transportError, st := .reporting, ph := .p0,
        transport := { s.transport.arrive with
          answers := as, consumed := s.transport.consumed + min lost s.transport.arrive.buffer.length },
        out := s.out ++ [.rdexact s.layout.raw.l .failed] })

/-- The order of bytes in a frame is the order of arrival (R52): FB[i] is the (i+1)-th byte beyond the position at which
RDEXACT was served. -/
def Obligations.FrameIsInOrderOfArrival : Prop :=
  ∀ (s t : State), Inv s → exec .read s = .next t → t.st = .validating →
    ∀ i, i < t.layout.raw.l → Memory.read t.fb i = t.transport.received[s.transport.consumed + i]?

/-- After an incomplete read the bytes obtained are dropped (R115, R116): they are consumed, FB holds no value, CNT is
their number, no data record is written, and Reporting is entered with no reading. -/
def Obligations.IncompleteReadDropsBytes : Prop :=
  ∀ (s : State) (k : Nat) (as : List ReadAnswer), Inv s → s.lc = .ready → s.st = .reading → s.ph = .p1 →
    s.transport.answers = .ok k :: as →
    min (min k s.layout.raw.l) s.transport.arrive.buffer.length < s.layout.raw.l →
    ∃ t, exec .read s = .next t ∧ t.st = .reporting ∧ t.ph = .p0 ∧ t.fk = .transportIncomplete ∧ t.outv = false ∧
      t.fb = [] ∧ t.da = none ∧ t.db = none ∧
      t.cnt = some (BitVec.ofNat 16 (min (min k s.layout.raw.l) s.transport.arrive.buffer.length)) ∧
      t.transport.consumed =
        s.transport.consumed + min (min k s.layout.raw.l) s.transport.arrive.buffer.length

/-- A read the transport reports as failed is never taken as a frame (R118), whatever bytes it removed: CNT and FB hold
no value, and the kind is TransportError. -/
def Obligations.TransportErrorNeverFrame : Prop :=
  ∀ (s : State) (lost : Nat) (as : List ReadAnswer), Inv s → s.lc = .ready → s.st = .reading → s.ph = .p1 →
    s.transport.answers = .failed lost :: as →
    ∃ t, exec .read s = .next t ∧ t.st = .reporting ∧ t.ph = .p0 ∧ t.fk = .transportError ∧ t.outv = false ∧
      t.cnt = none ∧ t.fb = [] ∧ t.da = none ∧ t.db = none

/-- READ holds while the transport has not answered (R257): no register changes, no transaction is complete, no byte is
consumed; bytes may arrive. -/
def Obligations.ReadHoldsWithoutAnswer : Prop :=
  ∀ s : State, s.lc = .ready → s.st = .reading → s.ph = .p1 →
    (s.transport.answers = [] → exec .read s = .next { s with transport := s.transport.arrive }) ∧
    (∀ as, s.transport.answers = .hold :: as →
      exec .read s = .next { s with transport := { s.transport.arrive with answers := as } })

/-- ACQUIRE (R117; one step by log entry 8) as a function of the transport's answer, under the duties of R247: an error, an incomplete frame, or
the frame; nothing is reported, and no register but CNT, FB, FK, ST, PH is written. -/
def Obligations.AcquireIsAcquireFrame : Prop :=
  ∀ s : State, s.lc = .ready → s.st = .reading → s.ph = .p0 → FlushEnds s.transport → ReadReturns s.transport →
    ∃ t r, exec .acquire s = .next t ∧ readResults t.out = readResults s.out ++ [r] ∧
      reports t.out = reports s.out ∧
      t = { s with cnt := t.cnt, fb := t.fb, fk := t.fk, st := t.st, ph := .p0, transport := t.transport, out := t.out } ∧
      match acquireFrame s.layout.raw r with
      | .transportError => t.st = .reporting ∧ t.fk = .transportError ∧ t.fb = s.fb ∧ t.cnt = s.cnt
      | .transportIncomplete => t.st = .reporting ∧ t.fk = .transportIncomplete ∧ t.fb = s.fb
      | .frame F => t.st = .validating ∧ t.fk = s.fk ∧ FrameIn t F

/-- ACQUIRE (one step by log entry 8) is FLUSH ; READ (R103): when the flush ends after `m` bytes and the transport answers at once, it is READ at
the state FLUSH ends in. -/
def Obligations.AcquireIsFlushThenRead : Prop :=
  ∀ (s u : State) (m : Nat) (a : ReadAnswer) (as : List ReadAnswer),
    s.lc = .ready → s.st = .reading → s.ph = .p0 →
    flushSteps m s = .next u → u.ph = .p1 → s.transport.answers = a :: as → a ≠ .hold →
    exec .acquire s = exec .read u

/-! ### FrameValidator -/

/-- HDRCHK (R131, R132) on a whole frame: pass exactly when all H header bytes match, otherwise BadHeader with all H
expected and all H actual bytes. Nothing else changes. -/
def Obligations.HdrchkOperation : Prop :=
  ∀ (s : State) (F : List Byte), s.lc = .ready → s.st = .validating → s.ph = .p0 → FrameIn s F →
    ((∀ j, j < s.layout.raw.h → F[j]? = s.layout.raw.hdr[j]?) →
      exec .hdrchk s = .next { s with hok := true, ph := .p1 }) ∧
    ((∃ j, j < s.layout.raw.h ∧ F[j]? ≠ s.layout.raw.hdr[j]?) →
      exec .hdrchk s = .next { s with
        fk := .badHeader, da := some (.bytes s.layout.raw.hdr), db := some (.bytes (F.take s.layout.raw.h)),
        st := .reporting, ph := .p0 })

/-- The computed sum (R133): the true sum of the span's bytes modulo 2^(8*CW); reducing at each addition gives the same
as reducing once, and the order of the bytes does not matter. -/
def Obligations.ComputedSumWraps : Prop :=
  (∀ (s : State) (F : List Byte), FrameIn s F →
    (computedSum s.layout.raw s.fb).toNat = (((F.drop s.layout.raw.csStart).take (s.layout.raw.csEnd - s.layout.raw.csStart)).map
        BitVec.toNat).sum % 2 ^ (8 * s.layout.raw.cw)) ∧
  (∀ (cw : Nat) (bs cs : List Byte), cw = 1 ∨ cw = 2 → bs.Perm cs →
    runningSum cw 0#16 bs = runningSum cw 0#16 cs)

/-- The received sum (R134, R53): one byte as it is; two bytes with the lower index more significant when CEND is big,
less significant when it is little. -/
def Obligations.ReceivedSumByWidthAndOrder : Prop :=
  ∀ (s : State) (F : List Byte) (b0 : Byte), FrameIn s F → F[s.layout.raw.ctOff]? = some b0 →
    (s.layout.raw.cw = 1 → (receivedSum s.layout.raw s.fb).toNat = b0.toNat) ∧
    (∀ b1, s.layout.raw.cw = 2 → F[s.layout.raw.ctOff + 1]? = some b1 →
      (s.layout.raw.cend = .big → (receivedSum s.layout.raw s.fb).toNat = b0.toNat * 256 + b1.toNat) ∧
      (s.layout.raw.cend = .little → (receivedSum s.layout.raw s.fb).toNat = b0.toNat + 256 * b1.toNat))

/-- SUMCHK (R135) on a whole frame: ACC and RXSUM are written; pass exactly when they are equal, otherwise BadChecksum
with both. Nothing else changes. -/
def Obligations.SumchkOperation : Prop :=
  ∀ (s : State) (F : List Byte), s.lc = .ready → s.st = .validating → s.ph = .p1 → FrameIn s F →
    (frameSum s.layout.raw F = frameTrailer s.layout.raw F →
      exec .sumchk s = .next { s with
        acc := some (frameSum s.layout.raw F), rxsum := some (frameTrailer s.layout.raw F), sok := true, ph := .p2 }) ∧
    (frameSum s.layout.raw F ≠ frameTrailer s.layout.raw F →
      exec .sumchk s = .next { s with
        acc := some (frameSum s.layout.raw F), rxsum := some (frameTrailer s.layout.raw F), fk := .badChecksum,
        da := some (.sum (frameSum s.layout.raw F)), db := some (.sum (frameTrailer s.layout.raw F)),
        st := .reporting, ph := .p0 })

/-- EXTRACT (R139): MEAS is high*256 + low, OUTV is set, Reporting is entered. Nothing else changes, and no memory. -/
def Obligations.ExtractOperation : Prop :=
  ∀ (s : State) (hi lo : Byte), s.lc = .ready → s.st = .validating → s.ph = .p2 →
    Memory.read s.fb s.layout.raw.vHi = some hi → Memory.read s.fb s.layout.raw.vLo = some lo →
    ∃ n : Word16, n.toNat = hi.toNat * 256 + lo.toNat ∧
      exec .extract s = .next { s with meas := some n, outv := true, st := .reporting, ph := .p0 }

/-- VALIDATE (R140; one step by log entry 8) is the function `validate`: header first, then checksum, then the measurement; each failure leaves
no measurement; the function returns a measurement exactly on the frames the invariant of the source calls valid. -/
def Obligations.ValidateIsValidate : Prop :=
  (∀ (s : State) (F : List Byte), s.lc = .ready → s.st = .validating → s.ph = .p0 → FrameIn s F →
    match validateFrame s.layout.raw F with
    | .badHeader e a => exec .validate s = .next { s with
        fk := .badHeader, da := some (.bytes e), db := some (.bytes a), st := .reporting, ph := .p0 }
    | .badChecksum c r => exec .validate s = .next { s with
        hok := true, acc := some c, rxsum := some r, fk := .badChecksum, da := some (.sum c), db := some (.sum r),
        st := .reporting, ph := .p0 }
    | .measurement n => exec .validate s = .next { s with
        hok := true, acc := some (frameSum s.layout.raw F), rxsum := some (frameTrailer s.layout.raw F), sok := true,
        meas := some n, outv := true, st := .reporting, ph := .p0 }) ∧
  (∀ (c : FrameLayout) (F : List Byte),
    (∃ n, validateFrame c F = .measurement n) ↔ F.take c.h = c.hdr ∧ frameSum c F = frameTrailer c F) ∧
  (∀ (c : FrameLayout) (F : List Byte) (n : Word16), validateFrame c F = .measurement n →
    n.toNat = (frameByte F c.vHi).toNat * 256 + (frameByte F c.vLo).toNat)

/-- Header validity (R141): a frame with the header and a correct checksum yields a measurement; with any header byte
changed it fails with BadHeader. -/
def Obligations.ChangedHeaderByteIsBadHeader : Prop :=
  ∀ (c : FrameLayout) (F : List Byte), F.length = c.l → c.h ≤ c.l → F.take c.h = c.hdr →
    (frameSum c F = frameTrailer c F → ∃ n, validateFrame c F = .measurement n) ∧
    (∀ (j : Nat) (b : Byte), j < c.h → F[j]? ≠ some b →
      validateFrame c (F.set j b) = .badHeader c.hdr ((F.set j b).take c.h))

/-- SUMCHK's result is a function of the frame and the layout alone (R138): two states that agree on them get the same
sums and go to the same place, whatever their transports, histories and other registers hold. -/
def Obligations.SumchkDependsOnFrameAlone : Prop :=
  ∀ (s1 s2 : State) (F : List Byte), s1.layout = s2.layout → FrameIn s1 F → FrameIn s2 F →
    s1.lc = .ready → s1.st = .validating → s1.ph = .p1 → s2.lc = .ready → s2.st = .validating → s2.ph = .p1 →
    ∃ t1 t2, exec .sumchk s1 = .next t1 ∧ exec .sumchk s2 = .next t2 ∧ t1.acc = t2.acc ∧ t1.rxsum = t2.rxsum ∧
      t1.acc.isSome = true ∧ t1.rxsum.isSome = true ∧ t1.st = t2.st ∧ t1.ph = t2.ph

/-- The trailer inside its own span (R83): the acceptance condition in terms of S, the sum of the span's other bytes. -/
def Obligations.TrailerInsideSpan : Prop :=
  ∀ (c : FrameLayout) (F : List Byte) (S : Nat), c.wf = true → F.length = c.l → c.csStart ≤ c.ctOff →
    c.ctOff + c.cw ≤ c.csEnd →
    (c.cw = 1 → spanTotal c F = S + (frameByte F c.ctOff).toNat →
      (frameSum c F = frameTrailer c F ↔ S % 256 = 0)) ∧
    (c.cw = 2 → c.cend = .big →
      spanTotal c F = S + (frameByte F c.ctOff).toNat + (frameByte F (c.ctOff + 1)).toNat →
      (frameSum c F = frameTrailer c F ↔ S % 65536 = 255 * (frameByte F c.ctOff).toNat % 65536)) ∧
    (c.cw = 2 → c.cend = .little →
      spanTotal c F = S + (frameByte F c.ctOff).toNat + (frameByte F (c.ctOff + 1)).toNat →
      (frameSum c F = frameTrailer c F ↔ S % 65536 = 255 * (frameByte F (c.ctOff + 1)).toNat % 65536))

/-! ### Reporting and the whole cycle -/

/-- REPORT (R168): the value, or the diagnostic record of FK, DA, DB (R229) and then the invalid marker; ST <- Idle,
PH <- 0; the data-path and diagnostic registers hold no value; every other register is unchanged. -/
def Obligations.ReportOperation : Prop :=
  ∀ s : State, s.lc = .ready → s.st = .reporting → s.ph = .p0 →
    (∀ n, s.outv = true → s.meas = some n →
      exec .report s = .next (afterReport s [.publish (some n)])) ∧
    (s.outv = false → s.fk = .transportIncomplete →
      exec .report s = .next (afterReport s [.diag .transportIncomplete, .publish none])) ∧
    (s.outv = false → s.fk = .transportError →
      exec .report s = .next (afterReport s [.diag .transportError, .publish none])) ∧
    (∀ e a, s.outv = false → s.fk = .badHeader → s.da = some (.bytes e) → s.db = some (.bytes a) →
      exec .report s = .next (afterReport s [.diag (.badHeader e a), .publish none])) ∧
    (∀ c r, s.outv = false → s.fk = .badChecksum → s.da = some (.sum c) → s.db = some (.sum r) →
      exec .report s = .next (afterReport s [.diag (.badChecksum c r), .publish none])) ∧
    (s.outv = false → s.fk = .setupFailure →
      exec .report s = .next (afterReport s [.diag .setupFailure, .publish none]))

/-- Entering failure handling (R205, R16): FK is the kind; BadHeader and BadChecksum write DA and DB, the transport
failures do not; ST <- Reporting, PH <- 0; nothing else changes. -/
def Obligations.RaiseRecordsFailure : Prop :=
  ∀ s : State,
    (raise .transportIncomplete s = { s with fk := .transportIncomplete, st := .reporting, ph := .p0 }) ∧
    (raise .transportError s = { s with fk := .transportError, st := .reporting, ph := .p0 }) ∧
    (∀ e a, raise (.badHeader e a) s =
      { s with fk := .badHeader, da := some (.bytes e), db := some (.bytes a), st := .reporting, ph := .p0 }) ∧
    (∀ c r, raise (.badChecksum c r) s =
      { s with fk := .badChecksum, da := some (.sum c), db := some (.sum r), st := .reporting, ph := .p0 })

/-- POLL (R171; one step by log entry 8), under the duties of R247: the reports are those of the function `poll` applied to the
answer of the cycle's single RDEXACT, the last transaction is the PUBLISH, and the instance is Ready and Idle again with
no data-path register holding a value. -/
def Obligations.PollIsPoll : Prop :=
  ∀ s : State, s.lc = .ready → s.st = .idle → s.ph = .p0 → FlushEnds s.transport → ReadReturns s.transport →
    ∃ t r p, exec .poll s = .next t ∧ t.lc = .ready ∧ t.st = .idle ∧ t.ph = .p0 ∧
      t.layout = s.layout ∧ t.inputs = s.inputs ∧ NoData t ∧
      readResults t.out = readResults s.out ++ [r] ∧ reports t.out = reports s.out ++ pollReports s.layout.raw r ∧
      t.out.getLast? = some (.publish p)

/-- Running the small steps from TICK to REPORT yields `poll` (R171): under the duties of R247 and with no RESET, every
accepted tick returns the instance to Ready and Idle, for the first time, having made exactly the reports `poll` gives,
the last of them the cycle's one PUBLISH. Bytes arrive during the cycle by the transport's script; arrivals presented as
inputs of their own are not in this statement. -/
def Obligations.SmallStepsYieldPoll : Prop :=
  ∀ (s : State) (rest : List Input), Inv s → s.lc = .ready → s.st = .idle →
    s.inputs = .command ⟨false, .tick⟩ :: rest → OnlyCommands rest →
    FlushEnds s.transport → ReadReturns s.transport →
    ∃ n t r p, run (n + 1) s = .next t ∧ t.lc = .ready ∧ t.st = .idle ∧ t.ph = .p0 ∧ NoData t ∧
      (∀ m, m < n → ∃ u, run (m + 1) s = .next u ∧ u.st ≠ .idle) ∧
      readResults t.out = readResults s.out ++ [r] ∧ reports t.out = reports s.out ++ pollReports s.layout.raw r ∧
      publishes t.out = publishes s.out ++ [.publish p] ∧ t.out.getLast? = some (.publish p)

/-- No operation other than REPORT publishes, and REPORT publishes once (R167); POLL contains a REPORT. -/
def Obligations.OnlyReportPublishes : Prop :=
  (∀ (i : Instr) (s t : State), exec i s = .next t → i ≠ .report → i ≠ .poll →
    publishes t.out = publishes s.out) ∧
  (∀ s t : State, exec .report s = .next t → ∃ p, publishes t.out = publishes s.out ++ [.publish p])

/-- A published value is the measurement of a valid frame (R140, R32, R251): the frame the buffer held matches the header
and its two sums agree. A POLL step, which makes several transactions, is `PollIsPoll`'s. -/
def Obligations.PublishedValueIsOfValidFrame : Prop :=
  ∀ (s t : State) (n : Word16), Inv s → step s = .next t → t.out = s.out ++ [.publish (some n)] →
    ∃ F, FrameIn s F ∧ F.take s.layout.raw.h = s.layout.raw.hdr ∧
      frameSum s.layout.raw F = frameTrailer s.layout.raw F ∧
      n.toNat = (frameByte F s.layout.raw.vHi).toNat * 256 + (frameByte F s.layout.raw.vLo).toNat

/-- No memory across cycles (R172): two cycles with the same layout and the same answer of RDEXACT make the same reports,
whatever came before. -/
def Obligations.CycleDependsOnAnswerAlone : Prop :=
  ∀ (s1 s2 t1 t2 : State) (r : ReadResult), s1.layout = s2.layout →
    exec .poll s1 = .next t1 → exec .poll s2 = .next t2 →
    readResults t1.out = readResults s1.out ++ [r] → readResults t2.out = readResults s2.out ++ [r] →
    ∃ rs, rs ≠ [] ∧ reports t1.out = reports s1.out ++ rs ∧ reports t2.out = reports s2.out ++ rs

/-! ### Rules over all operations -/

/-- No operation writes a layout register, RESET included, and FrameValidator does not write the frame (R22). -/
def Obligations.LayoutIsNeverWritten : Prop :=
  (∀ s t : State, step s = .next t → t.layout = s.layout) ∧
  (∀ (i : Instr) (s t : State), exec i s = .next t → i = .hdrchk ∨ i = .sumchk ∨ i = .extract ∨ i = .validate →
    t.layout = s.layout ∧ t.fb = s.fb)

/-- LC is written only by RESET and SETUP (R23). -/
def Obligations.LifecycleWrittenOnlyByResetAndSetup : Prop :=
  ∀ (i : Instr) (s t : State), exec i s = .next t → t.lc ≠ s.lc → i = .reset ∨ ∃ ok, i = .setup ok

/-- FB is written only by READ (R27): every index reads as before under every operation that neither reads a frame nor
ends a cycle, and after REPORT, POLL to its end, and RESET it holds nothing (R34). -/
def Obligations.FrameWrittenOnlyByRead : Prop :=
  (∀ (i : Instr) (s t : State), exec i s = .next t →
    i ≠ .read → i ≠ .acquire → i ≠ .poll → i ≠ .report → i ≠ .reset →
    ∀ a, Memory.read t.fb a = Memory.read s.fb a) ∧
  (∀ (i : Instr) (s t : State), exec i s = .next t → i = .report ∨ i = .reset → ∀ a, Memory.read t.fb a = none) ∧
  (∀ (i : Instr) (s t : State), exec i s = .next t → i = .read ∨ i = .acquire →
    ∀ a, s.layout.raw.l ≤ a → Memory.read t.fb a = Memory.read s.fb a)

/-- Only FLUSH and READ use the transport (R50), by themselves or inside a pseudo-operation; FRAME_A is the transport's
own move. -/
def Obligations.TransportUsedOnlyByFrameReader : Prop :=
  ∀ (i : Instr) (s t : State), exec i s = .next t → i ≠ .flush → i ≠ .read → i ≠ .acquire → i ≠ .poll →
    transportOps t.out = transportOps s.out ∧
    ((∀ a h l b c d, i ≠ .frameA a h l b c d) → t.transport = s.transport)

/-- The stream is consumed in order, each byte once (R61): what has arrived is only appended to, and the position only
advances, never beyond what has arrived. -/
def Obligations.StreamConsumedInOrder : Prop :=
  ∀ s t : State, s.transport.consumed ≤ s.transport.received.length → step s = .next t →
    (∃ bs, t.transport.received = s.transport.received ++ bs) ∧ s.transport.consumed ≤ t.transport.consumed ∧
    t.transport.consumed ≤ t.transport.received.length

/-- A failed instance is silent (R186): until RESET no transport operation, no PUBLISH and no further DIAG ever occurs,
and it stays Failed; DESCRIBE still works. -/
def Obligations.FailedInstanceIsSilent : Prop :=
  (∀ (s t : State) (n : Nat), Inv s → s.lc = .failed → NoReset s.inputs → run n s = .next t →
    t.lc = .failed ∧ t.st = .idle ∧ reports t.out = reports s.out ∧ transportOps t.out = transportOps s.out) ∧
  (∀ (s : State) (rest : List Input), Inv s → s.lc = .failed → s.inputs = .command ⟨false, .describe⟩ :: rest →
    step s = .next { s with
      inputs := rest, out := s.out ++ [.describe (Config.describeText s.layout.raw s.lc)] })

/-- The rules of the sequencing registers (R26) are kept by every step, with nothing assumed of the data path. -/
def Obligations.SequencingStaysLegal : Prop :=
  ∀ s t : State, step s = .next t →
    (s.st ≠ .idle → s.lc = .ready) → (s.st = .idle ∨ s.st = .reporting → s.ph = .p0) → (s.st = .reading → s.ph ≠ .p2) →
    (t.st ≠ .idle → t.lc = .ready) ∧ (t.st = .idle ∨ t.st = .reporting → t.ph = .p0) ∧ (t.st = .reading → t.ph ≠ .p2)

/-- The invariant is kept by every step: the sequencing rules, the stream's position, and what every data-path and status
register holds in every state of the cycle. -/
def Obligations.StepKeepsInvariant : Prop := ∀ s t : State, Inv s → step s = .next t → Inv t

/-- The frame buffer keeps its canonical form. -/
def Obligations.FrameBufferStaysCanonical : Prop :=
  ∀ s t : State, Memory.wf s.fb = true → step s = .next t → Memory.wf t.fb = true

/-- No state that meets the invariant is stuck (R256): unless a path is requested, the step answers a next state; with
nothing or a command presented it performs exactly the operation the dispatch table gives. -/
def Obligations.NoReachableStateIsStuck : Prop :=
  ∀ s : State, Inv s → (∀ bs rest, s.inputs ≠ .path bs :: rest) →
    (∃ t, step s = .next t) ∧
    (∀ c rest, s.inputs = .command c :: rest →
      ∃ i, selectionInWords c.rst s.lc s.st s.ph c.ev = some i ∧ step s = exec i { s with inputs := rest })

/-- The edges of R160 are all the edges: a step with the RESET line low and no path requested leaves (ST, PH) as they
are, or moves them along one of the table's edges. -/
def Obligations.OnlyTheseEdges : Prop :=
  ∀ s t : State, Inv s → step s = .next t → (∀ ev rest, s.inputs ≠ .command ⟨true, ev⟩ :: rest) →
    (∀ bs rest, s.inputs ≠ .path bs :: rest) →
    (t.st = s.st ∧ t.ph = s.ph) ∨ ((s.st, s.ph), (t.st, t.ph)) ∈ cycleEdges

/-- RESET overrides any command and any phase operation (R210, R181), in every state, legal or not. -/
def Obligations.ResetOverridesEverything : Prop :=
  ∀ (s : State) (ev : Event) (rest : List Input), s.inputs = .command ⟨true, ev⟩ :: rest →
    step s = exec .reset { s with inputs := rest }

/-- An operation asked for where it is not selected is refused by name (R101, U9; log entry 12). -/
def Obligations.UnselectedOperationRefused : Prop :=
  ∀ (i : Instr) (s : State), ¬ selectedIn i s → exec i s = .refused .notSelected

/-- Every operation completes wherever it is selected, in every state, legal or not, whatever its registers hold and whatever
the transport does. Together with `UnselectedOperationRefused`: exactly there. The model's choice in part: that an operation
runs where a register it reads holds no value (log entry 2; U10 calls such a read a fault), that REPORT runs where R229 states
no record (log entry 19), that a pseudo-operation is one step (log entry 8), and where it, RESET and FRAME_A are selected
(log entry 12). -/
def Obligations.EverySelectedOperationCompletes : Prop :=
  ∀ (i : Instr) (s : State), selectedIn i s → ∃ t, exec i s = .next t

/-! ### Encoding and stepping -/

/-- Decoding an encoded well-formed operation gives it back, with every operand at every value. -/
def Obligations.DecodeEncodeRoundTrip : Prop := ∀ i : Instr, i.wf = true → decode (encode i) = .ok i

/-- On the transport each frame has one meaning: what decodes is well formed and its encoding is the very bytes (R81). -/
def Obligations.DecodedFrameKeepsItsBytes : Prop :=
  ∀ (bs : List Byte) (i : Instr), decode ⟨.transport, bs⟩ = .ok i →
    i.wf = true ∧ encode i = ⟨.transport, bs⟩ ∧ bs.length = 32 ∧ bs.take 2 = [0x42, 0x4D]

/-- The selection table (R100): with the RESET line asserted RESET whatever the rest; otherwise the operation the table
gives in words; no word is selected by two rows. -/
def Obligations.SelectionTable : Prop :=
  (∀ (x : Xdw) (ok : Bool), x.getLsbD 8 = true → decode (presentXdw x ok) = .ok .reset) ∧
  (∀ (rst : Bool) (lc : Lifecycle) (st : CycleState) (ph : Phase) (ev : Event),
    decode (presentXdw (xdwOf rst lc st ph ev) ev.okBit) =
      match selectionInWords rst lc st ph ev with
      | some i => .ok i
      | none => .error .noRow) ∧
  (∀ x : Xdw, (dispatchTable.filter (rowSelects x)).length ≤ 1)

/-- Of the 256 dispatch words 36 select an operation, and LC = 3 selects none (R101). -/
def Obligations.ThirtySixDispatchWords : Prop :=
  ((List.range 256).filter fun n =>
    match decode (presentXdw (BitVec.ofNat 9 n) false) with
    | .ok _ => true
    | .error _ => false).length = 36 ∧
  (∀ x : Xdw, ∀ ok : Bool, x.getLsbD 8 = false → x.extractLsb' 6 2 = 3#2 →
    decode (presentXdw x ok) = .error .unusedLifecycle ∨ decode (presentXdw x ok) = .error .noRow)

/-- A few words written out from the spec's encodings decode to what they stand for (R100, R103, R81). -/
def Obligations.SpecWordsDecode : Prop :=
  decode ⟨.command, [0x42, 0x00]⟩ = .ok .tick ∧ decode ⟨.command, [0x52, 0x00]⟩ = .ok .flush ∧
  decode ⟨.command, [0x67, 0x00]⟩ = .ok .sumchk ∧ decode ⟨.command, [0x83, 0x00]⟩ = .ok .describe ∧
  decode ⟨.command, [0x01, 0x02]⟩ = .ok (.setup true) ∧ decode ⟨.command, [0xFF, 0x01]⟩ = .ok .reset ∧
  decode ⟨.path, [0x50, 0xA8, 0x00]⟩ = .ok .acquire

/-- A step runs the decoded operation: one entry of the list of inputs is used up and `exec` does the rest. Bytes that
arrive and are no frame of layout A only arrive (R68). A dispatch word without an operation is refused (U9). That inputs
are a list, one entry a step, is the model's choice (log entry 4), and so are the request for a path, the refusal of one
that is no path (log entry 8) and the bytes all this is presented in (log entry 10). -/
def Obligations.StepRunsDecoded : Prop :=
  ∀ s : State,
    (∀ i, decode (fetch s) = .ok i → step s = exec i { s with inputs := s.inputs.tail }) ∧
    (∀ e bs rest, s.inputs = .arrival bs :: rest → decode (fetch s) = .error e →
      step s = .next { s with
        inputs := rest, transport := { s.transport with received := s.transport.received ++ bs } }) ∧
    (∀ e, (∀ bs rest, s.inputs ≠ .arrival bs :: rest) → decode (fetch s) = .error e →
      step s = .refused .noOperationSelected) ∧
    (s.inputs = [] → fetch s = presentXdw (xdwOf false s.lc s.st s.ph .none) false) ∧
    (∀ c rest, s.inputs = .command c :: rest →
      fetch s = presentXdw (xdwOf c.rst s.lc s.st s.ph c.ev) c.ev.okBit)

/-- FRAME_A: its 32 bytes arrive at the transport in order and nothing else changes. That this row stands for the arrival
of such a frame is the model's choice (log entry 9). -/
def Obligations.FrameAArrives : Prop :=
  ∀ (s : State) (a b : List Byte) (h l c d : Byte),
    exec (.frameA a h l b c d) s = .next { s with
      transport := { s.transport with
        received := s.transport.received ++ ([0x42, 0x4D] ++ a ++ [h, l] ++ b ++ [c, d]) } }

/-- Layout A's frame format (R81): a well-formed FRAME_A is a valid frame exactly when its checksum constraint holds, and
its measurement is then h*256 + l. -/
def Obligations.FrameAConstraint : Prop :=
  ∀ (a b : List Byte) (h l c d : Byte), a.length = 4 → b.length = 22 →
    (c.toNat * 256 + d.toNat =
        ((([0x42, 0x4D] ++ a ++ [h, l] ++ b : List Byte)).map BitVec.toNat).sum % 65536 ↔
      validateFrame Config.layoutA (frameABytes a h l b c d) =
        .measurement (BitVec.ofNat 16 (h.toNat * 256 + l.toNat)))

/-! ### Instances -/

/-- Instances are independent (R227): a step of one leaves every other as it is, and steps of two different instances
can be taken in either order. -/
def Obligations.InstancesAreIndependent : Prop :=
  ∀ (sys sys1 : List State) (i : Nat), stepInstance i sys = some sys1 →
    (∀ j, j ≠ i → sys1[j]? = sys[j]?) ∧
    (∀ (j : Nat) (sys2 : List State), j ≠ i → stepInstance j sys1 = some sys2 →
      ∃ sys3, stepInstance j sys = some sys3 ∧ stepInstance i sys3 = some sys2)

/-! ### Registers that hold no value (spec/10_state.md R34, R37) -/

/-- Where a register an operation reads holds no value, only that value is free, and the rest of the operation is as its
rule says: the model's choice (log entries 2 and 19). MemRead gives every written byte as it is; REPORT publishes some
value for an absent MEAS, and makes a record of the kind FK says, with DA and DB where they hold what the kind takes. No
state that meets the invariant is such a state: in Validating all of FB is written, in Reporting all that REPORT reads. -/
def Obligations.UnwrittenRegistersAreFree : Prop :=
  (∀ (m : Memory) (i n : Nat), (memRead m i n).length = n ∧
    ∀ j b, j < n → Memory.read m (i + j) = some b → (memRead m i n)[j]? = some b) ∧
  (∀ s : State, s.lc = .ready → s.st = .reporting → s.ph = .p0 →
    (s.outv = true → ∃ n, exec .report s = .next (afterReport s [.publish (some n)])) ∧
    (s.outv = false → s.fk = .none → ∃ r, exec .report s = .next (afterReport s [.diag r, .publish none])) ∧
    (s.outv = false → s.fk = .badHeader →
      ∃ e a, exec .report s = .next (afterReport s [.diag (.badHeader e a), .publish none]) ∧
        (∀ bs, s.da = some (.bytes bs) → e = bs) ∧ (∀ bs, s.db = some (.bytes bs) → a = bs) ∧
        ((∀ bs, s.da ≠ some (.bytes bs)) → e.length = s.layout.raw.h) ∧
        ((∀ bs, s.db ≠ some (.bytes bs)) → a.length = s.layout.raw.h)) ∧
    (s.outv = false → s.fk = .badChecksum →
      ∃ c r, exec .report s = .next (afterReport s [.diag (.badChecksum c r), .publish none]) ∧
        (∀ v, s.da = some (.sum v) → c = v) ∧ (∀ v, s.db = some (.sum v) → r = v) ∧
        ((∀ v, s.da ≠ some (.sum v)) → c.toNat < 2 ^ (8 * s.layout.raw.cw)) ∧
        ((∀ v, s.db ≠ some (.sum v)) → r.toNat < 2 ^ (8 * s.layout.raw.cw)))) ∧
  (∀ s : State, Inv s →
    (s.st = .validating → ∀ i, i < s.layout.raw.l → (Memory.read s.fb i).isSome = true) ∧
    (s.st = .reporting → s.outv = true → s.meas.isSome = true) ∧
    (s.st = .reporting → s.outv = false → s.fk ≠ .none ∧
      (s.fk = .badHeader → (∃ bs, s.da = some (.bytes bs)) ∧ ∃ bs, s.db = some (.bytes bs)) ∧
      (s.fk = .badChecksum → (∃ v, s.da = some (.sum v)) ∧ ∃ v, s.db = some (.sum v))))

/-- No rule reads a data-path or diagnostic register before the same cycle has written it (R34): an operation that starts
in Idle or Reading, a pseudo-operation too, does the same whether these registers hold anything or not. -/
def Obligations.NoReadBeforeWrite : Prop :=
  ∀ (i : Instr) (s t : State), s.st = .idle ∨ s.st = .reading → exec i s = .next t →
    ∃ u, exec i s.dropData = .next u ∧ u.layout = t.layout ∧ u.lc = t.lc ∧ u.st = t.st ∧ u.ph = t.ph ∧
      u.hok = t.hok ∧ u.sok = t.sok ∧ u.outv = t.outv ∧ u.fk = t.fk ∧ u.transport = t.transport ∧
      u.inputs = t.inputs ∧ u.out = t.out
end

