-- ==== Sys2Proof/Laws/Memory.lean ====
section
/-! SUPPORT. The frame buffer: a read after a write, the canonical form, and what a stored frame reads as. -/

namespace Sys2Proof.Machine

/-- A write is read back where it was made, and leaves every other index alone. -/
theorem read_write (m : Memory) (i : Nat) (b : Byte) (a : Nat) :
    Memory.read (Memory.write m i b) a = if a = i then some b else Memory.read m a := by
  induction m with
  | nil => grind [Memory.write, Memory.read]
  | cons c m ih =>
    obtain ⟨k, v⟩ := c
    grind [Memory.write, Memory.read]

/-- The indices of a written memory are the old ones and the written one. -/
theorem mem_write {m : Memory} {i : Nat} {b : Byte} {c : Host.Cell} (h : c ∈ Memory.write m i b) :
    c.1 = i ∨ ∃ v, (c.1, v) ∈ m := by
  induction m with
  | nil => simp [Memory.write] at h; simp [h]
  | cons d m ih =>
    obtain ⟨k, v⟩ := d
    simp only [Memory.write] at h
    split_ifs at h with h1 h2
    · simp only [List.mem_cons] at h
      rcases h with rfl | rfl | h
      · exact .inl rfl
      · exact .inr ⟨v, by simp⟩
      · exact .inr ⟨c.2, by simp [h]⟩
    · simp only [List.mem_cons] at h
      rcases h with rfl | h
      · exact .inl rfl
      · exact .inr ⟨c.2, by simp [h]⟩
    · simp only [List.mem_cons] at h
      rcases h with rfl | h
      · exact .inr ⟨v, by simp⟩
      · rcases ih h with h | ⟨w, h⟩
        · exact .inl h
        · exact .inr ⟨w, by simp [h]⟩

/-- The canonical form of a memory with a first cell. -/
theorem wf_cons (k : Nat) (v : Byte) (m : Memory) :
    Memory.wf ((k, v) :: m) = true ↔ (∀ c ∈ m, k < c.1) ∧ Memory.wf m = true := by
  simp [Memory.wf]

/-- A write keeps the canonical form. -/
theorem write_wf {m : Memory} (h : Memory.wf m = true) (i : Nat) (b : Byte) :
    Memory.wf (Memory.write m i b) = true := by
  induction m with
  | nil => simp [Memory.write, Memory.wf]
  | cons c m ih =>
    obtain ⟨k, v⟩ := c
    have hkm := (wf_cons k v m).1 h
    simp only [Memory.write]
    split_ifs with h1 h2
    · refine (wf_cons _ _ _).2 ⟨fun c hc => ?_, h⟩
      simp only [List.mem_cons] at hc
      rcases hc with rfl | hc
      · exact h1
      · exact h1.trans (hkm.1 c hc)
    · subst h2
      exact (wf_cons _ _ _).2 hkm
    · refine (wf_cons _ _ _).2 ⟨fun c hc => ?_, ih hkm.2⟩
      rcases mem_write hc with hc | ⟨w, hc⟩
      · omega
      · exact hkm.1 (c.1, w) hc

/-- Storing bytes keeps the canonical form. -/
theorem storeBytes_wf {m : Memory} (h : Memory.wf m = true) (i : Nat) (bs : List Byte) :
    Memory.wf (storeBytes m i bs) = true := by
  induction bs generalizing m i with
  | nil => exact h
  | cons b bs ih => exact ih (write_wf h i b) (i + 1)

/-- The canonical form holds at reset. -/
theorem reset_fb_wf : Memory.wf State.reset.fb = true := rfl

/-- What a memory reads as after bytes are stored from index i on. -/
theorem read_storeBytes (m : Memory) (i : Nat) (bs : List Byte) (a : Nat) :
    Memory.read (storeBytes m i bs) a = if i ≤ a ∧ a < i + bs.length then bs[a - i]? else Memory.read m a := by
  induction bs generalizing m i with
  | nil => simp [storeBytes]
  | cons b bs ih =>
    simp only [storeBytes, ih, read_write, List.length_cons]
    by_cases hai : a = i
    · subst hai; simp
    · by_cases h : i + 1 ≤ a ∧ a < i + 1 + bs.length
      · have h' : i ≤ a ∧ a < i + (bs.length + 1) := by omega
        obtain ⟨j, rfl⟩ : ∃ j, a = i + 1 + j := ⟨a - (i + 1), by omega⟩
        have e1 : i + 1 + j - (i + 1) = j := by omega
        have e2 : i + 1 + j - i = j + 1 := by omega
        rw [if_pos h, if_pos h', e1, e2, List.getElem?_cons_succ]
      · have h' : ¬(i ≤ a ∧ a < i + (bs.length + 1)) := by omega
        rw [if_neg h, if_neg h', if_neg hai]

/-- A frame stored from index 0 on reads back byte by byte. -/
theorem read_frame (m : Memory) (F : List Byte) {a : Nat} (h : a < F.length) :
    Memory.read (storeBytes m 0 F) a = some F[a] := by
  rw [read_storeBytes, if_pos (by omega)]
  simp [h]

/-- A written index is read as it is. -/
theorem fbByte_of_read {m : Memory} {i : Nat} {b : Byte} (h : Memory.read m i = some b) : fbByte m i = b := by
  simp [fbByte, h]

/-- MemRead gives as many bytes as are asked for. -/
@[simp] theorem memRead_length (m : Memory) (i n : Nat) : (memRead m i n).length = n := by
  induction n generalizing i with
  | zero => rfl
  | succ n ih => simp [memRead, ih]

/-- Byte j of MemRead(i, n) is FB[i+j]. -/
theorem memRead_getElem? (m : Memory) (i n j : Nat) (h : j < n) : (memRead m i n)[j]? = some (fbByte m (i + j)) := by
  induction n generalizing i j with
  | zero => omega
  | succ n ih =>
    cases j with
    | zero => rfl
    | succ j =>
      have e : i + 1 + j = i + (j + 1) := by omega
      rw [memRead, List.getElem?_cons_succ, ih (i + 1) j (by omega), e]

/-- MemRead of indices that hold the bytes of F is the slice of F. -/
theorem memRead_of_read {m : Memory} {F : List Byte} (i n : Nat) (hn : i + n ≤ F.length)
    (h : ∀ a, i ≤ a → a < i + n → Memory.read m a = F[a]?) : memRead m i n = (F.drop i).take n := by
  induction n generalizing i with
  | zero => simp [memRead]
  | succ n ih =>
    have hi : i < F.length := by omega
    have h1 : fbByte m i = F[i] := fbByte_of_read (by rw [h i le_rfl (by omega)]; simp [hi])
    have h2 := ih (i + 1) (by omega) fun a ha hb => h a (by omega) (by omega)
    rw [memRead, h1, h2, List.drop_eq_getElem_cons hi, List.take_succ_cons]

end Sys2Proof.Machine
end

