-- ==== Sys2Proof/Laws/State.lean ====
section
/-! SUPPORT. One lemma per field per update of the state, so that no proof unfolds a record update. -/

namespace Sys2Proof.Machine

/-! ### State.goTo -/

@[simp] theorem State.goTo_layout (s : State) (st : CycleState) (ph : Phase) : (s.goTo st ph).layout = s.layout := rfl
@[simp] theorem State.goTo_lc (s : State) (st : CycleState) (ph : Phase) : (s.goTo st ph).lc = s.lc := rfl
@[simp] theorem State.goTo_st (s : State) (st : CycleState) (ph : Phase) : (s.goTo st ph).st = st := rfl
@[simp] theorem State.goTo_ph (s : State) (st : CycleState) (ph : Phase) : (s.goTo st ph).ph = ph := rfl
@[simp] theorem State.goTo_fb (s : State) (st : CycleState) (ph : Phase) : (s.goTo st ph).fb = s.fb := rfl
@[simp] theorem State.goTo_cnt (s : State) (st : CycleState) (ph : Phase) : (s.goTo st ph).cnt = s.cnt := rfl
@[simp] theorem State.goTo_acc (s : State) (st : CycleState) (ph : Phase) : (s.goTo st ph).acc = s.acc := rfl
@[simp] theorem State.goTo_rxsum (s : State) (st : CycleState) (ph : Phase) : (s.goTo st ph).rxsum = s.rxsum := rfl
@[simp] theorem State.goTo_meas (s : State) (st : CycleState) (ph : Phase) : (s.goTo st ph).meas = s.meas := rfl
@[simp] theorem State.goTo_hok (s : State) (st : CycleState) (ph : Phase) : (s.goTo st ph).hok = s.hok := rfl
@[simp] theorem State.goTo_sok (s : State) (st : CycleState) (ph : Phase) : (s.goTo st ph).sok = s.sok := rfl
@[simp] theorem State.goTo_outv (s : State) (st : CycleState) (ph : Phase) : (s.goTo st ph).outv = s.outv := rfl
@[simp] theorem State.goTo_fk (s : State) (st : CycleState) (ph : Phase) : (s.goTo st ph).fk = s.fk := rfl
@[simp] theorem State.goTo_da (s : State) (st : CycleState) (ph : Phase) : (s.goTo st ph).da = s.da := rfl
@[simp] theorem State.goTo_db (s : State) (st : CycleState) (ph : Phase) : (s.goTo st ph).db = s.db := rfl
@[simp] theorem State.goTo_transport (s : State) (st : CycleState) (ph : Phase) : (s.goTo st ph).transport = s.transport := rfl
@[simp] theorem State.goTo_inputs (s : State) (st : CycleState) (ph : Phase) : (s.goTo st ph).inputs = s.inputs := rfl
@[simp] theorem State.goTo_out (s : State) (st : CycleState) (ph : Phase) : (s.goTo st ph).out = s.out := rfl

/-! ### State.emit -/

@[simp] theorem State.emit_layout (s : State) (t : Transaction) : (s.emit t).layout = s.layout := rfl
@[simp] theorem State.emit_lc (s : State) (t : Transaction) : (s.emit t).lc = s.lc := rfl
@[simp] theorem State.emit_st (s : State) (t : Transaction) : (s.emit t).st = s.st := rfl
@[simp] theorem State.emit_ph (s : State) (t : Transaction) : (s.emit t).ph = s.ph := rfl
@[simp] theorem State.emit_fb (s : State) (t : Transaction) : (s.emit t).fb = s.fb := rfl
@[simp] theorem State.emit_cnt (s : State) (t : Transaction) : (s.emit t).cnt = s.cnt := rfl
@[simp] theorem State.emit_acc (s : State) (t : Transaction) : (s.emit t).acc = s.acc := rfl
@[simp] theorem State.emit_rxsum (s : State) (t : Transaction) : (s.emit t).rxsum = s.rxsum := rfl
@[simp] theorem State.emit_meas (s : State) (t : Transaction) : (s.emit t).meas = s.meas := rfl
@[simp] theorem State.emit_hok (s : State) (t : Transaction) : (s.emit t).hok = s.hok := rfl
@[simp] theorem State.emit_sok (s : State) (t : Transaction) : (s.emit t).sok = s.sok := rfl
@[simp] theorem State.emit_outv (s : State) (t : Transaction) : (s.emit t).outv = s.outv := rfl
@[simp] theorem State.emit_fk (s : State) (t : Transaction) : (s.emit t).fk = s.fk := rfl
@[simp] theorem State.emit_da (s : State) (t : Transaction) : (s.emit t).da = s.da := rfl
@[simp] theorem State.emit_db (s : State) (t : Transaction) : (s.emit t).db = s.db := rfl
@[simp] theorem State.emit_transport (s : State) (t : Transaction) : (s.emit t).transport = s.transport := rfl
@[simp] theorem State.emit_inputs (s : State) (t : Transaction) : (s.emit t).inputs = s.inputs := rfl
@[simp] theorem State.emit_out (s : State) (t : Transaction) : (s.emit t).out = s.out ++ [t] := rfl

/-! ### State.advance -/

@[simp] theorem State.advance_layout (s : State) : (s.advance).layout = s.layout := rfl
@[simp] theorem State.advance_lc (s : State) : (s.advance).lc = s.lc := rfl
@[simp] theorem State.advance_st (s : State) : (s.advance).st = s.st := rfl
@[simp] theorem State.advance_ph (s : State) : (s.advance).ph = s.ph := rfl
@[simp] theorem State.advance_fb (s : State) : (s.advance).fb = s.fb := rfl
@[simp] theorem State.advance_cnt (s : State) : (s.advance).cnt = s.cnt := rfl
@[simp] theorem State.advance_acc (s : State) : (s.advance).acc = s.acc := rfl
@[simp] theorem State.advance_rxsum (s : State) : (s.advance).rxsum = s.rxsum := rfl
@[simp] theorem State.advance_meas (s : State) : (s.advance).meas = s.meas := rfl
@[simp] theorem State.advance_hok (s : State) : (s.advance).hok = s.hok := rfl
@[simp] theorem State.advance_sok (s : State) : (s.advance).sok = s.sok := rfl
@[simp] theorem State.advance_outv (s : State) : (s.advance).outv = s.outv := rfl
@[simp] theorem State.advance_fk (s : State) : (s.advance).fk = s.fk := rfl
@[simp] theorem State.advance_da (s : State) : (s.advance).da = s.da := rfl
@[simp] theorem State.advance_db (s : State) : (s.advance).db = s.db := rfl
@[simp] theorem State.advance_transport (s : State) : (s.advance).transport = s.transport := rfl
@[simp] theorem State.advance_inputs (s : State) : (s.advance).inputs = s.inputs.tail := rfl
@[simp] theorem State.advance_out (s : State) : (s.advance).out = s.out := rfl

/-! ### State.setTransport -/

@[simp] theorem State.setTransport_layout (s : State) (tr : Transport) : (s.setTransport tr).layout = s.layout := rfl
@[simp] theorem State.setTransport_lc (s : State) (tr : Transport) : (s.setTransport tr).lc = s.lc := rfl
@[simp] theorem State.setTransport_st (s : State) (tr : Transport) : (s.setTransport tr).st = s.st := rfl
@[simp] theorem State.setTransport_ph (s : State) (tr : Transport) : (s.setTransport tr).ph = s.ph := rfl
@[simp] theorem State.setTransport_fb (s : State) (tr : Transport) : (s.setTransport tr).fb = s.fb := rfl
@[simp] theorem State.setTransport_cnt (s : State) (tr : Transport) : (s.setTransport tr).cnt = s.cnt := rfl
@[simp] theorem State.setTransport_acc (s : State) (tr : Transport) : (s.setTransport tr).acc = s.acc := rfl
@[simp] theorem State.setTransport_rxsum (s : State) (tr : Transport) : (s.setTransport tr).rxsum = s.rxsum := rfl
@[simp] theorem State.setTransport_meas (s : State) (tr : Transport) : (s.setTransport tr).meas = s.meas := rfl
@[simp] theorem State.setTransport_hok (s : State) (tr : Transport) : (s.setTransport tr).hok = s.hok := rfl
@[simp] theorem State.setTransport_sok (s : State) (tr : Transport) : (s.setTransport tr).sok = s.sok := rfl
@[simp] theorem State.setTransport_outv (s : State) (tr : Transport) : (s.setTransport tr).outv = s.outv := rfl
@[simp] theorem State.setTransport_fk (s : State) (tr : Transport) : (s.setTransport tr).fk = s.fk := rfl
@[simp] theorem State.setTransport_da (s : State) (tr : Transport) : (s.setTransport tr).da = s.da := rfl
@[simp] theorem State.setTransport_db (s : State) (tr : Transport) : (s.setTransport tr).db = s.db := rfl
@[simp] theorem State.setTransport_transport (s : State) (tr : Transport) : (s.setTransport tr).transport = tr := rfl
@[simp] theorem State.setTransport_inputs (s : State) (tr : Transport) : (s.setTransport tr).inputs = s.inputs := rfl
@[simp] theorem State.setTransport_out (s : State) (tr : Transport) : (s.setTransport tr).out = s.out := rfl

/-! ### State.dropData -/

@[simp] theorem State.dropData_layout (s : State) : (s.dropData).layout = s.layout := rfl
@[simp] theorem State.dropData_lc (s : State) : (s.dropData).lc = s.lc := rfl
@[simp] theorem State.dropData_st (s : State) : (s.dropData).st = s.st := rfl
@[simp] theorem State.dropData_ph (s : State) : (s.dropData).ph = s.ph := rfl
@[simp] theorem State.dropData_fb (s : State) : (s.dropData).fb = [] := rfl
@[simp] theorem State.dropData_cnt (s : State) : (s.dropData).cnt = none := rfl
@[simp] theorem State.dropData_acc (s : State) : (s.dropData).acc = none := rfl
@[simp] theorem State.dropData_rxsum (s : State) : (s.dropData).rxsum = none := rfl
@[simp] theorem State.dropData_meas (s : State) : (s.dropData).meas = none := rfl
@[simp] theorem State.dropData_hok (s : State) : (s.dropData).hok = s.hok := rfl
@[simp] theorem State.dropData_sok (s : State) : (s.dropData).sok = s.sok := rfl
@[simp] theorem State.dropData_outv (s : State) : (s.dropData).outv = s.outv := rfl
@[simp] theorem State.dropData_fk (s : State) : (s.dropData).fk = s.fk := rfl
@[simp] theorem State.dropData_da (s : State) : (s.dropData).da = none := rfl
@[simp] theorem State.dropData_db (s : State) : (s.dropData).db = none := rfl
@[simp] theorem State.dropData_transport (s : State) : (s.dropData).transport = s.transport := rfl
@[simp] theorem State.dropData_inputs (s : State) : (s.dropData).inputs = s.inputs := rfl
@[simp] theorem State.dropData_out (s : State) : (s.dropData).out = s.out := rfl

/-! ### endCycle -/

@[simp] theorem endCycle_layout (s : State) : (endCycle s).layout = s.layout := rfl
@[simp] theorem endCycle_lc (s : State) : (endCycle s).lc = s.lc := rfl
@[simp] theorem endCycle_st (s : State) : (endCycle s).st = .idle := rfl
@[simp] theorem endCycle_ph (s : State) : (endCycle s).ph = .p0 := rfl
@[simp] theorem endCycle_fb (s : State) : (endCycle s).fb = [] := rfl
@[simp] theorem endCycle_cnt (s : State) : (endCycle s).cnt = none := rfl
@[simp] theorem endCycle_acc (s : State) : (endCycle s).acc = none := rfl
@[simp] theorem endCycle_rxsum (s : State) : (endCycle s).rxsum = none := rfl
@[simp] theorem endCycle_meas (s : State) : (endCycle s).meas = none := rfl
@[simp] theorem endCycle_hok (s : State) : (endCycle s).hok = s.hok := rfl
@[simp] theorem endCycle_sok (s : State) : (endCycle s).sok = s.sok := rfl
@[simp] theorem endCycle_outv (s : State) : (endCycle s).outv = s.outv := rfl
@[simp] theorem endCycle_fk (s : State) : (endCycle s).fk = s.fk := rfl
@[simp] theorem endCycle_da (s : State) : (endCycle s).da = none := rfl
@[simp] theorem endCycle_db (s : State) : (endCycle s).db = none := rfl
@[simp] theorem endCycle_transport (s : State) : (endCycle s).transport = s.transport := rfl
@[simp] theorem endCycle_inputs (s : State) : (endCycle s).inputs = s.inputs := rfl
@[simp] theorem endCycle_out (s : State) : (endCycle s).out = s.out := rfl

/-! ### deliverBytes -/

@[simp] theorem deliverBytes_layout (bs : List Byte) (s : State) : (deliverBytes bs s).layout = s.layout := rfl
@[simp] theorem deliverBytes_lc (bs : List Byte) (s : State) : (deliverBytes bs s).lc = s.lc := rfl
@[simp] theorem deliverBytes_st (bs : List Byte) (s : State) : (deliverBytes bs s).st = s.st := rfl
@[simp] theorem deliverBytes_ph (bs : List Byte) (s : State) : (deliverBytes bs s).ph = s.ph := rfl
@[simp] theorem deliverBytes_fb (bs : List Byte) (s : State) : (deliverBytes bs s).fb = s.fb := rfl
@[simp] theorem deliverBytes_cnt (bs : List Byte) (s : State) : (deliverBytes bs s).cnt = s.cnt := rfl
@[simp] theorem deliverBytes_acc (bs : List Byte) (s : State) : (deliverBytes bs s).acc = s.acc := rfl
@[simp] theorem deliverBytes_rxsum (bs : List Byte) (s : State) : (deliverBytes bs s).rxsum = s.rxsum := rfl
@[simp] theorem deliverBytes_meas (bs : List Byte) (s : State) : (deliverBytes bs s).meas = s.meas := rfl
@[simp] theorem deliverBytes_hok (bs : List Byte) (s : State) : (deliverBytes bs s).hok = s.hok := rfl
@[simp] theorem deliverBytes_sok (bs : List Byte) (s : State) : (deliverBytes bs s).sok = s.sok := rfl
@[simp] theorem deliverBytes_outv (bs : List Byte) (s : State) : (deliverBytes bs s).outv = s.outv := rfl
@[simp] theorem deliverBytes_fk (bs : List Byte) (s : State) : (deliverBytes bs s).fk = s.fk := rfl
@[simp] theorem deliverBytes_da (bs : List Byte) (s : State) : (deliverBytes bs s).da = s.da := rfl
@[simp] theorem deliverBytes_db (bs : List Byte) (s : State) : (deliverBytes bs s).db = s.db := rfl
@[simp] theorem deliverBytes_transport (bs : List Byte) (s : State) : (deliverBytes bs s).transport = s.transport.deliver bs := rfl
@[simp] theorem deliverBytes_inputs (bs : List Byte) (s : State) : (deliverBytes bs s).inputs = s.inputs := rfl
@[simp] theorem deliverBytes_out (bs : List Byte) (s : State) : (deliverBytes bs s).out = s.out := rfl

/-! ### raise (R205, R212): FK, ST and PH always, DA and DB by kind, nothing else -/

@[simp] theorem raise_layout (r : Record) (s : State) : (raise r s).layout = s.layout := by cases r <;> rfl
@[simp] theorem raise_lc (r : Record) (s : State) : (raise r s).lc = s.lc := by cases r <;> rfl
@[simp] theorem raise_st (r : Record) (s : State) : (raise r s).st = .reporting := by cases r <;> rfl
@[simp] theorem raise_ph (r : Record) (s : State) : (raise r s).ph = .p0 := by cases r <;> rfl
@[simp] theorem raise_fb (r : Record) (s : State) : (raise r s).fb = s.fb := by cases r <;> rfl
@[simp] theorem raise_cnt (r : Record) (s : State) : (raise r s).cnt = s.cnt := by cases r <;> rfl
@[simp] theorem raise_acc (r : Record) (s : State) : (raise r s).acc = s.acc := by cases r <;> rfl
@[simp] theorem raise_rxsum (r : Record) (s : State) : (raise r s).rxsum = s.rxsum := by cases r <;> rfl
@[simp] theorem raise_meas (r : Record) (s : State) : (raise r s).meas = s.meas := by cases r <;> rfl
@[simp] theorem raise_hok (r : Record) (s : State) : (raise r s).hok = s.hok := by cases r <;> rfl
@[simp] theorem raise_sok (r : Record) (s : State) : (raise r s).sok = s.sok := by cases r <;> rfl
@[simp] theorem raise_outv (r : Record) (s : State) : (raise r s).outv = s.outv := by cases r <;> rfl
@[simp] theorem raise_fk (r : Record) (s : State) : (raise r s).fk = r.kind := by cases r <;> rfl
@[simp] theorem raise_transport (r : Record) (s : State) : (raise r s).transport = s.transport := by cases r <;> rfl
@[simp] theorem raise_inputs (r : Record) (s : State) : (raise r s).inputs = s.inputs := by cases r <;> rfl
@[simp] theorem raise_out (r : Record) (s : State) : (raise r s).out = s.out := by cases r <;> rfl
@[simp] theorem raise_transportIncomplete_da (s : State) : (raise .transportIncomplete s).da = s.da := rfl
@[simp] theorem raise_transportIncomplete_db (s : State) : (raise .transportIncomplete s).db = s.db := rfl
@[simp] theorem raise_transportError_da (s : State) : (raise .transportError s).da = s.da := rfl
@[simp] theorem raise_transportError_db (s : State) : (raise .transportError s).db = s.db := rfl
@[simp] theorem raise_setupFailure_da (s : State) : (raise .setupFailure s).da = s.da := rfl
@[simp] theorem raise_setupFailure_db (s : State) : (raise .setupFailure s).db = s.db := rfl
@[simp] theorem raise_badHeader_da (e a : List Byte) (s : State) : (raise (.badHeader e a) s).da = some (.bytes e) := rfl
@[simp] theorem raise_badHeader_db (e a : List Byte) (s : State) : (raise (.badHeader e a) s).db = some (.bytes a) := rfl
@[simp] theorem raise_badChecksum_da (c v : Word16) (s : State) : (raise (.badChecksum c v) s).da = some (.sum c) := rfl
@[simp] theorem raise_badChecksum_db (c v : Word16) (s : State) : (raise (.badChecksum c v) s).db = some (.sum v) := rfl

/-! ### acceptRead and compareSums: the fields they leave alone -/

@[simp] theorem acceptRead_layout (bs : List Byte) (s : State) : (acceptRead bs s).layout = s.layout := by
  unfold acceptRead; dsimp only; split <;> simp
@[simp] theorem acceptRead_lc (bs : List Byte) (s : State) : (acceptRead bs s).lc = s.lc := by
  unfold acceptRead; dsimp only; split <;> simp
@[simp] theorem acceptRead_acc (bs : List Byte) (s : State) : (acceptRead bs s).acc = s.acc := by
  unfold acceptRead; dsimp only; split <;> simp
@[simp] theorem acceptRead_rxsum (bs : List Byte) (s : State) : (acceptRead bs s).rxsum = s.rxsum := by
  unfold acceptRead; dsimp only; split <;> simp
@[simp] theorem acceptRead_meas (bs : List Byte) (s : State) : (acceptRead bs s).meas = s.meas := by
  unfold acceptRead; dsimp only; split <;> simp
@[simp] theorem acceptRead_hok (bs : List Byte) (s : State) : (acceptRead bs s).hok = s.hok := by
  unfold acceptRead; dsimp only; split <;> simp
@[simp] theorem acceptRead_sok (bs : List Byte) (s : State) : (acceptRead bs s).sok = s.sok := by
  unfold acceptRead; dsimp only; split <;> simp
@[simp] theorem acceptRead_outv (bs : List Byte) (s : State) : (acceptRead bs s).outv = s.outv := by
  unfold acceptRead; dsimp only; split <;> simp
@[simp] theorem acceptRead_da (bs : List Byte) (s : State) : (acceptRead bs s).da = s.da := by
  unfold acceptRead; dsimp only; split <;> simp
@[simp] theorem acceptRead_db (bs : List Byte) (s : State) : (acceptRead bs s).db = s.db := by
  unfold acceptRead; dsimp only; split <;> simp
@[simp] theorem acceptRead_transport (bs : List Byte) (s : State) : (acceptRead bs s).transport = s.transport := by
  unfold acceptRead; dsimp only; split <;> simp
@[simp] theorem acceptRead_inputs (bs : List Byte) (s : State) : (acceptRead bs s).inputs = s.inputs := by
  unfold acceptRead; dsimp only; split <;> simp
@[simp] theorem acceptRead_out (bs : List Byte) (s : State) : (acceptRead bs s).out = s.out := by
  unfold acceptRead; dsimp only; split <;> simp
@[simp] theorem compareSums_layout (c r : Word16) (s : State) : (compareSums c r s).layout = s.layout := by
  unfold compareSums; dsimp only; split <;> simp
@[simp] theorem compareSums_lc (c r : Word16) (s : State) : (compareSums c r s).lc = s.lc := by
  unfold compareSums; dsimp only; split <;> simp
@[simp] theorem compareSums_fb (c r : Word16) (s : State) : (compareSums c r s).fb = s.fb := by
  unfold compareSums; dsimp only; split <;> simp
@[simp] theorem compareSums_cnt (c r : Word16) (s : State) : (compareSums c r s).cnt = s.cnt := by
  unfold compareSums; dsimp only; split <;> simp
@[simp] theorem compareSums_meas (c r : Word16) (s : State) : (compareSums c r s).meas = s.meas := by
  unfold compareSums; dsimp only; split <;> simp
@[simp] theorem compareSums_hok (c r : Word16) (s : State) : (compareSums c r s).hok = s.hok := by
  unfold compareSums; dsimp only; split <;> simp
@[simp] theorem compareSums_outv (c r : Word16) (s : State) : (compareSums c r s).outv = s.outv := by
  unfold compareSums; dsimp only; split <;> simp
@[simp] theorem compareSums_transport (c r : Word16) (s : State) : (compareSums c r s).transport = s.transport := by
  unfold compareSums; dsimp only; split <;> simp
@[simp] theorem compareSums_inputs (c r : Word16) (s : State) : (compareSums c r s).inputs = s.inputs := by
  unfold compareSums; dsimp only; split <;> simp
@[simp] theorem compareSums_out (c r : Word16) (s : State) : (compareSums c r s).out = s.out := by
  unfold compareSums; dsimp only; split <;> simp

/-! ### The conditions of selection -/

/-- The condition "selected when" as three equations. -/
theorem State.isAt_iff (s : State) (lc : Lifecycle) (st : CycleState) (ph : Phase) :
    s.isAt lc st ph = true ↔ s.lc = lc ∧ s.st = st ∧ s.ph = ph := by
  simp [State.isAt, and_assoc]

/-- The condition of the DESCRIBE and WAIT rows as two equations. -/
theorem State.isIdle_iff (s : State) : s.isIdle = true ↔ s.st = .idle ∧ s.ph = .p0 := by
  simp [State.isIdle]

end Sys2Proof.Machine
end

