-- ==== Sys2Proof/Laws/Ops.lean ====
section
/-! SUPPORT. What each shared operation and each meaning can do when it answers a next state, said once. -/

namespace Sys2Proof.Machine

/-! ### Selection and paths -/

/-- A guarded meaning answers a next state exactly where it is selected and its body does. -/
theorem whenSelected_next {b : Bool} {r : Result} {t : State} :
    whenSelected b r = .next t ↔ b = true ∧ r = .next t := by
  cases b <;> simp [whenSelected]

/-- Where the operation is selected the guard is gone. -/
theorem whenSelected_true (r : Result) : whenSelected true r = r := rfl

/-- Where it is not selected it is refused by name. -/
theorem whenSelected_false (r : Result) : whenSelected false r = .refused .notSelected := rfl

/-- A path answers a next state exactly when its first part does, and either the path ends there or goes on to it. -/
theorem thenIf_next {r : Result} {sel : State → Bool} {f : State → Result} {t : State} :
    thenIf r sel f = .next t ↔ ∃ s, r = .next s ∧ (sel s = false ∧ t = s ∨ sel s = true ∧ f s = .next t) := by
  cases r with
  | next s =>
    have e : ∀ s', (Host.Outcome.next s : Result) = .next s' ↔ s' = s := fun s' => by
      rw [Host.Outcome.next.injEq]; exact eq_comm
    cases h : sel s
    · simp only [thenIf, h, Bool.false_eq_true, if_false, e]
      exact ⟨fun ht => ⟨s, rfl, .inl ⟨h, ht⟩⟩, by rintro ⟨_, rfl, ⟨-, ht⟩ | ⟨h', -⟩⟩ <;> simp_all⟩
    · simp only [thenIf, h, if_true, e]
      exact ⟨fun ht => ⟨s, rfl, .inr ⟨h, ht⟩⟩, by rintro ⟨_, rfl, ⟨h', -⟩ | ⟨-, ht⟩⟩ <;> simp_all⟩
  | fault e => simp [thenIf]
  | refused e => simp [thenIf]

/-- A path whose first part answers a state that selects the next goes on. -/
theorem thenIf_of_sel {s : State} {sel : State → Bool} (f : State → Result) (h : sel s = true) :
    thenIf (.next s) sel f = f s := by simp [thenIf, h]

/-- A path whose first part answers a state that does not select the next ends there. -/
theorem thenIf_of_not_sel {s : State} {sel : State → Bool} (f : State → Result) (h : sel s = false) :
    thenIf (.next s) sel f = .next s := by simp [thenIf, h]

/-! ### The transport -/

@[simp] theorem Transport.deliver_received (tr : Transport) (bs : List Byte) :
    (tr.deliver bs).received = tr.received ++ bs := rfl
@[simp] theorem Transport.deliver_consumed (tr : Transport) (bs : List Byte) :
    (tr.deliver bs).consumed = tr.consumed := rfl
@[simp] theorem Transport.deliver_arrivals (tr : Transport) (bs : List Byte) :
    (tr.deliver bs).arrivals = tr.arrivals := rfl
@[simp] theorem Transport.deliver_steady (tr : Transport) (bs : List Byte) :
    (tr.deliver bs).steady = tr.steady := rfl
@[simp] theorem Transport.deliver_answers (tr : Transport) (bs : List Byte) :
    (tr.deliver bs).answers = tr.answers := rfl
@[simp] theorem Transport.consume_received (tr : Transport) (n : Nat) :
    (tr.consume n).received = tr.received := rfl
@[simp] theorem Transport.consume_consumed (tr : Transport) (n : Nat) :
    (tr.consume n).consumed = tr.consumed + min n tr.buffer.length := rfl
@[simp] theorem Transport.consume_arrivals (tr : Transport) (n : Nat) :
    (tr.consume n).arrivals = tr.arrivals := rfl
@[simp] theorem Transport.consume_steady (tr : Transport) (n : Nat) : (tr.consume n).steady = tr.steady := rfl
@[simp] theorem Transport.consume_answers (tr : Transport) (n : Nat) : (tr.consume n).answers = tr.answers := rfl
@[simp] theorem Transport.answerTaken_received (tr : Transport) : tr.answerTaken.received = tr.received := rfl
@[simp] theorem Transport.answerTaken_consumed (tr : Transport) : tr.answerTaken.consumed = tr.consumed := rfl
@[simp] theorem Transport.answerTaken_arrivals (tr : Transport) : tr.answerTaken.arrivals = tr.arrivals := rfl
@[simp] theorem Transport.answerTaken_steady (tr : Transport) : tr.answerTaken.steady = tr.steady := rfl
@[simp] theorem Transport.answerTaken_answers (tr : Transport) : tr.answerTaken.answers = tr.answers.tail := rfl
@[simp] theorem Transport.answerTaken_buffer (tr : Transport) : tr.answerTaken.buffer = tr.buffer := rfl

/-- A burst that arrives is appended to what has arrived; the position and the answers stay. -/
@[simp] theorem Transport.arrive_consumed (tr : Transport) : tr.arrive.consumed = tr.consumed := by
  unfold Transport.arrive; split <;> rfl

@[simp] theorem Transport.arrive_answers (tr : Transport) : tr.arrive.answers = tr.answers := by
  unfold Transport.arrive; split <;> rfl

@[simp] theorem Transport.arrive_steady (tr : Transport) : tr.arrive.steady = tr.steady := by
  unfold Transport.arrive; split <;> rfl

/-- What arrives: the head of the script, or the steady burst. -/
theorem Transport.arrive_received (tr : Transport) :
    tr.arrive.received = tr.received ++ tr.arrivals.headD tr.steady := by
  unfold Transport.arrive; split <;> simp_all

@[simp] theorem Transport.arrive_arrivals (tr : Transport) : tr.arrive.arrivals = tr.arrivals.tail := by
  unfold Transport.arrive; split <;> simp_all

/-- Nothing that has arrived is lost by an arrival. -/
theorem Transport.arrive_length_le (tr : Transport) : tr.received.length ≤ tr.arrive.received.length := by
  simp [Transport.arrive_received]

/-- The number of bytes buffered is what has arrived beyond the position. -/
theorem Transport.buffer_length (tr : Transport) : tr.buffer.length = tr.received.length - tr.consumed := by
  simp [Transport.buffer]

/-- An empty buffer means that everything that has arrived is consumed. -/
theorem Transport.buffer_eq_nil (tr : Transport) : tr.buffer = [] ↔ tr.received.length ≤ tr.consumed := by
  simp [Transport.buffer, List.drop_eq_nil_iff]

/-- Consuming takes the oldest bytes off the buffer. -/
theorem Transport.consume_buffer (tr : Transport) (n : Nat) : (tr.consume n).buffer = tr.buffer.drop n := by
  simp only [Transport.buffer, Transport.consume, List.length_drop]
  rw [List.drop_drop]
  by_cases h : n ≤ tr.received.length - tr.consumed
  · rw [Nat.min_eq_left h]
  · rw [List.drop_eq_nil_of_le (by omega), List.drop_eq_nil_of_le (by omega)]

/-- The position stays inside what has arrived. -/
theorem Transport.arrive_position {tr : Transport} (h : tr.consumed ≤ tr.received.length) :
    tr.arrive.consumed ≤ tr.arrive.received.length := by
  have := tr.arrive_length_le
  simp only [Transport.arrive_consumed]; omega

theorem Transport.consume_position {tr : Transport} (h : tr.consumed ≤ tr.received.length) (n : Nat) :
    (tr.consume n).consumed ≤ (tr.consume n).received.length := by
  simp only [Transport.consume_consumed, Transport.consume_received, Transport.buffer_length]; omega

/-! ### The transport operations -/

/-- AVAIL answers how many bytes are buffered once the burst has arrived, and changes nothing else (R57). -/
theorem avail_eq (s : State) :
    avail s = (s.transport.arrive.buffer.length,
      (s.setTransport s.transport.arrive).emit (.avail s.transport.arrive.buffer.length)) := rfl

/-- RDBYTE on a transport that has a byte takes the oldest (R58). -/
theorem rdbyte_cons {s : State} {b : Byte} {bs : List Byte} (h : s.transport.buffer = b :: bs) :
    rdbyte s = some (b, (s.setTransport (s.transport.consume 1)).emit (.rdbyte b)) := by
  simp [rdbyte, h]

/-- All that RDEXACT can come to (R59). -/
theorem rdexact_cases (n : Nat) (s : State) :
    (∃ tr, rdexact n s = .held (s.setTransport tr) ∧ tr.received = s.transport.arrive.received ∧
      tr.consumed = s.transport.consumed) ∨
    (∃ k as, s.transport.answers = .ok k :: as ∧
      rdexact n s = .answered (.bytes (s.transport.arrive.buffer.take (min k n)))
        ((s.setTransport (s.transport.arrive.answerTaken.consume (min k n))).emit
          (.rdexact n (.bytes (s.transport.arrive.buffer.take (min k n)))))) ∨
    (∃ lost as, s.transport.answers = .failed lost :: as ∧
      rdexact n s = .answered .failed
        ((s.setTransport (s.transport.arrive.answerTaken.consume lost)).emit (.rdexact n .failed))) := by
  unfold rdexact
  simp only [Transport.arrive_answers]
  split
  · exact .inl ⟨_, rfl, rfl, by simp⟩
  · exact .inl ⟨_, rfl, rfl, by simp⟩
  · rename_i k as h; exact .inr (.inl ⟨k, as, h, rfl⟩)
  · rename_i lost as h; exact .inr (.inr ⟨lost, as, h, rfl⟩)

/-! ### What each meaning does when it answers a next state -/

/-- FLUSH ends on an empty transport, or takes one byte off it (R111, R257). -/
theorem execFlush_next {s t : State} (h : execFlush s = .next t) :
    s.isAt .ready .reading .p0 = true ∧
    ((s.transport.arrive.buffer = [] ∧
      t = ((s.setTransport s.transport.arrive).emit (.avail 0)).goTo .reading .p1) ∨
     ∃ b bs, s.transport.arrive.buffer = b :: bs ∧
      t = (((s.setTransport s.transport.arrive).emit (.avail (bs.length + 1))).setTransport
        (s.transport.arrive.consume 1)).emit (.rdbyte b)) := by
  obtain ⟨hsel, h⟩ := whenSelected_next.1 h
  refine ⟨hsel, ?_⟩
  rw [avail_eq] at h
  cases hb : s.transport.arrive.buffer with
  | nil =>
    simp only [hb, List.length_nil] at h
    exact .inl ⟨rfl, by simpa using h.symm⟩
  | cons b bs =>
    simp only [hb, List.length_cons] at h
    rw [rdbyte_cons (b := b) (bs := bs) (by simpa using hb)] at h
    exact .inr ⟨b, bs, rfl, by simpa using h.symm⟩

/-- READ holds, raises a transport error, or accepts what it was given (R114, R118, R257). -/
theorem execRead_next {s t : State} (h : execRead s = .next t) :
    s.isAt .ready .reading .p1 = true ∧
    ((∃ tr, t = s.setTransport tr ∧ tr.received = s.transport.arrive.received ∧
        tr.consumed = s.transport.consumed) ∨
     (∃ lost, t = raise .transportError
        ((s.setTransport (s.transport.arrive.answerTaken.consume lost)).emit (.rdexact s.layout.raw.l .failed))) ∨
     (∃ k, t = acceptRead (s.transport.arrive.buffer.take (min k s.layout.raw.l))
        ((s.setTransport (s.transport.arrive.answerTaken.consume (min k s.layout.raw.l))).emit
          (.rdexact s.layout.raw.l (.bytes (s.transport.arrive.buffer.take (min k s.layout.raw.l))))))) := by
  obtain ⟨hsel, h⟩ := whenSelected_next.1 h
  refine ⟨hsel, ?_⟩
  obtain ⟨tr, hr, h1, h2⟩ | ⟨k, as, -, hr⟩ | ⟨lost, as, -, hr⟩ := rdexact_cases s.layout.raw.l s
  · rw [hr] at h; exact .inl ⟨tr, by simpa using h.symm, h1, h2⟩
  · rw [hr] at h; exact .inr (.inr ⟨k, by simpa using h.symm⟩)
  · rw [hr] at h; exact .inr (.inl ⟨lost, by simpa using h.symm⟩)

/-- HDRCHK passes or raises (R131). -/
theorem execHdrchk_next {s t : State} (h : execHdrchk s = .next t) :
    s.isAt .ready .validating .p0 = true ∧
      ((actualHeader s.layout.raw s.fb = s.layout.raw.hdr ∧ t = ({ s with hok := true } : State).goTo .validating .p1) ∨
       (actualHeader s.layout.raw s.fb ≠ s.layout.raw.hdr ∧
        t = raise (.badHeader s.layout.raw.hdr (actualHeader s.layout.raw s.fb)) s)) := by
  obtain ⟨hsel, h⟩ := whenSelected_next.1 h
  refine ⟨hsel, ?_⟩
  by_cases he : actualHeader s.layout.raw s.fb = s.layout.raw.hdr
  · exact .inl ⟨he, by simpa [headerMatches, he] using h.symm⟩
  · exact .inr ⟨he, by simpa [headerMatches, he] using h.symm⟩

/-- SUMCHK compares the two sums (R135). -/
theorem execSumchk_next {s t : State} (h : execSumchk s = .next t) :
    s.isAt .ready .validating .p1 = true ∧
      t = compareSums (computedSum s.layout.raw s.fb) (receivedSum s.layout.raw s.fb) s := by
  obtain ⟨hsel, h⟩ := whenSelected_next.1 h
  exact ⟨hsel, by simpa using h.symm⟩

/-- EXTRACT writes the measurement (R139). -/
theorem execExtract_next {s t : State} (h : execExtract s = .next t) :
    s.isAt .ready .validating .p2 = true ∧
      t = ({ s with meas := some (measurement s.layout.raw s.fb), outv := true } : State).goTo .reporting .p0 := by
  obtain ⟨hsel, h⟩ := whenSelected_next.1 h
  exact ⟨hsel, by simpa using h.symm⟩

/-- REPORT publishes a value, or a record and the invalid marker, and the cycle ends (R168). -/
theorem execReport_next {s t : State} (h : execReport s = .next t) :
    s.isAt .ready .reporting .p0 = true ∧
    ((s.outv = true ∧ t = endCycle (s.emit (.publish (some (s.meas.getD Config.unwrittenMeas))))) ∨
     (s.outv = false ∧
        t = endCycle ((s.emit (.diag (recordOf s.layout.raw s.fk s.da s.db))).emit (.publish none)))) := by
  obtain ⟨hsel, h⟩ := whenSelected_next.1 h
  refine ⟨hsel, ?_⟩
  cases ho : s.outv with
  | true => exact .inl ⟨rfl, by simpa [ho] using h.symm⟩
  | false => exact .inr ⟨rfl, by simpa [ho] using h.symm⟩

/-- REPORT with OUTV = 1 publishes MEAS (R168). -/
theorem execReport_value {s : State} (h : s.isAt .ready .reporting .p0 = true) (ho : s.outv = true) {n : Word16}
    (hn : s.meas = some n) : execReport s = .next (endCycle (s.emit (.publish (some n)))) := by
  simp [execReport, h, whenSelected_true, ho, hn]

/-- REPORT with OUTV = 0 makes the record and publishes invalid (R168). -/
theorem execReport_failed {s : State} (h : s.isAt .ready .reporting .p0 = true) (ho : s.outv = false) :
    execReport s =
      .next (endCycle ((s.emit (.diag (recordOf s.layout.raw s.fk s.da s.db))).emit (.publish none))) := by
  simp [execReport, h, whenSelected_true, ho]

/-- TICK starts a cycle (R162). -/
theorem execTick_next {s t : State} (h : execTick s = .next t) :
    s.isAt .ready .idle .p0 = true ∧
      t = ({ s with hok := false, sok := false, outv := false, fk := .none } : State).goTo .reading .p0 := by
  obtain ⟨hsel, h⟩ := whenSelected_next.1 h
  exact ⟨hsel, by simpa using h.symm⟩

/-- SETUP enters Ready or Failed (R183). -/
theorem execSetup_next {ok : Bool} {s t : State} (h : execSetup ok s = .next t) :
    s.isAt .uninit .idle .p0 = true ∧
    ((ok = true ∧ t = { s with lc := .ready }) ∨
     (ok = false ∧ t = { ({ s with fk := .setupFailure } : State).emit (.diag .setupFailure) with lc := .failed })) := by
  obtain ⟨hsel, h⟩ := whenSelected_next.1 h
  refine ⟨hsel, ?_⟩
  cases ok
  · exact .inr ⟨rfl, by simpa using h.symm⟩
  · exact .inl ⟨rfl, by simpa using h.symm⟩

/-- DESCRIBE returns its text (R188). -/
theorem execDescribe_next {s t : State} (h : execDescribe s = .next t) :
    s.isIdle = true ∧ t = s.emit (.describe (Config.describeText s.layout.raw s.lc)) := by
  obtain ⟨hsel, h⟩ := whenSelected_next.1 h
  exact ⟨hsel, by simpa using h.symm⟩

/-- WAIT changes nothing (R170). -/
theorem execWait_next {s t : State} (h : execWait s = .next t) : s.isIdle = true ∧ t = s := by
  obtain ⟨hsel, h⟩ := whenSelected_next.1 h
  exact ⟨hsel, by simpa using h.symm⟩

/-- A command that is not accepted changes nothing (R161). -/
theorem ignoreCommand_next {lc : Lifecycle} {s t : State} (h : ignoreCommand lc s = .next t) :
    s.isAt lc .idle .p0 = true ∧ t = s := by
  obtain ⟨hsel, h⟩ := whenSelected_next.1 h
  exact ⟨hsel, by simpa using h.symm⟩

end Sys2Proof.Machine
end

