-- ==== Sys2Proof/Laws/Frame.lean ====
section
/-! SUPPORT. What a well-formed layout gives, what a frame held in FB reads as, and the invariant built state by state. -/

namespace Sys2Proof.Machine

/-- The clauses of WF (R9), named. -/
structure LayoutFacts (c : FrameLayout) : Prop where
  l_pos : 1 ≤ c.l
  l_le : c.l ≤ 65535
  h_le : c.h ≤ c.l
  cw : c.cw = 1 ∨ c.cw = 2
  span : c.csStart ≤ c.csEnd
  span_le : c.csEnd ≤ c.l
  trailer_le : c.ctOff + c.cw ≤ c.l
  vHi_lt : c.vHi < c.l
  vLo_lt : c.vLo < c.l

/-- WF says its clauses. -/
theorem layoutFacts_of_wf {c : FrameLayout} (h : c.wf = true) : LayoutFacts c := by
  simp only [FrameLayout.wf, Bool.and_eq_true, Bool.or_eq_true, decide_eq_true_eq, beq_iff_eq] at h
  obtain ⟨⟨⟨⟨⟨⟨⟨⟨h1, h2⟩, h3⟩, h4⟩, h5⟩, h6⟩, h7⟩, h8⟩, h9⟩ := h
  exact ⟨h1, h2, h3, h4, h5, h6, h7, h8, h9⟩

/-- The layout of every state is well formed (R86). -/
theorem layoutFacts (s : State) : LayoutFacts s.layout.raw := layoutFacts_of_wf s.layout.wf

/-- A frame that FB holds can be read byte by byte. -/
theorem HoldsFrame.frameIn {s : State} {F : List Byte} (h : HoldsFrame s F) : FrameIn s F where
  length := h.length
  bytes i hi := by
    rw [h.fb, read_storeBytes]
    have := h.length
    rw [if_pos (by omega)]
    rfl

/-- MemRead of a frame is its slice. -/
theorem memRead_frame {s : State} {F : List Byte} (h : FrameIn s F) (i n : Nat) (hn : i + n ≤ s.layout.raw.l) :
    memRead s.fb i n = (F.drop i).take n :=
  memRead_of_read i n (by have := h.length; omega) fun a _ hb => h.bytes a (by omega)

/-- FB[i] of a frame is its byte. -/
theorem read_frameByte {s : State} {F : List Byte} (h : FrameIn s F) {i : Nat} (hi : i < s.layout.raw.l) :
    Memory.read s.fb i = some (frameByte F i) := by
  have hl : i < F.length := by have := h.length; omega
  rw [h.bytes i hi]
  simp [frameByte, hl]

/-- What an operation reads at an index of a frame is the frame's byte. -/
theorem fbByte_frame {s : State} {F : List Byte} (h : FrameIn s F) {i : Nat} (hi : i < s.layout.raw.l) :
    fbByte s.fb i = frameByte F i := fbByte_of_read (read_frameByte h hi)

/-! ### The invariant in each state of the cycle -/

theorem inv_of_idle {s : State} (st : s.st = .idle) (ph : s.ph = .p0)
    (pos : s.transport.consumed ≤ s.transport.received.length) (d : IdleData s) : Inv s where
  busyReady h := absurd st h
  phaseZero _ := ph
  phaseReading _ := by simp [ph]
  position := pos
  idle _ := d
  reading h := by simp [st] at h
  validating h := by simp [st] at h
  reporting h := by simp [st] at h

theorem inv_of_reading {s : State} (lc : s.lc = .ready) (st : s.st = .reading) (ph : s.ph ≠ .p2)
    (pos : s.transport.consumed ≤ s.transport.received.length) (d : ReadingData s) : Inv s where
  busyReady _ := lc
  phaseZero h := by simp [st] at h
  phaseReading _ := ph
  position := pos
  idle h := by simp [st] at h
  reading _ := d
  validating h := by simp [st] at h
  reporting h := by simp [st] at h

theorem inv_of_validating {s : State} (lc : s.lc = .ready) (st : s.st = .validating)
    (pos : s.transport.consumed ≤ s.transport.received.length) {F : List Byte} (d : ValidatingData s F) : Inv s where
  busyReady _ := lc
  phaseZero h := by simp [st] at h
  phaseReading h := by simp [st] at h
  position := pos
  idle h := by simp [st] at h
  reading h := by simp [st] at h
  validating _ := ⟨F, d⟩
  reporting h := by simp [st] at h

theorem inv_of_reporting {s : State} (lc : s.lc = .ready) (st : s.st = .reporting) (ph : s.ph = .p0)
    (pos : s.transport.consumed ≤ s.transport.received.length) (d : ReportingData s) : Inv s where
  busyReady _ := lc
  phaseZero _ := ph
  phaseReading _ := by simp [ph]
  position := pos
  idle h := by simp [st] at h
  reading h := by simp [st] at h
  validating h := by simp [st] at h
  reporting _ := d

end Sys2Proof.Machine
end

