-- ==== Sys2Proof/Laws/Operands.lean ====
section
/-! SUPPORT. What the four operands of spec/30_encoding.md R82 are when FB holds a frame. -/

namespace Sys2Proof.Machine

/-- be16 as a number (spec/00_scope.md R15). -/
theorem be16_toNat (a b : Byte) : (be16 a b).toNat = a.toNat * 256 + b.toNat := by
  have := a.isLt; have := b.isLt
  simp [be16]; omega

/-- le16 as a number (spec/00_scope.md R15). -/
theorem le16_toNat (a b : Byte) : (le16 a b).toNat = a.toNat + 256 * b.toNat := by
  have := a.isLt; have := b.isLt
  simp [le16]; omega

/-- HDRCHK reads the frame's first H bytes (R131). -/
theorem actualHeader_frame {s : State} {F : List Byte} (h : FrameIn s F) :
    actualHeader s.layout.raw s.fb = F.take s.layout.raw.h := by
  have := memRead_frame h 0 s.layout.raw.h (by have := (layoutFacts s).h_le; omega)
  simpa [actualHeader] using this

/-- trunc is reduction modulo 2^(8*CW) (R133). -/
theorem truncSum_toNat {cw} (hcw : cw = 1 ∨ cw = 2) (v : Word16) : (truncSum cw v).toNat = v.toNat % 2^(8*cw) := by
  rcases hcw with rfl | rfl
  · simp only [truncSum, if_true, BitVec.toNat_and]
    have : (0x00FF#16).toNat = 2^8-1 := by decide
    rw [this, Nat.and_two_pow_sub_one_eq_mod]
  · simp only [truncSum]; have := v.isLt; simp; omega

/-- Reducing at every addition is reducing once at the end (R133). -/
theorem runningSum_toNat {cw} (hcw : cw = 1 ∨ cw = 2) (acc : Word16) (ha : acc.toNat < 2^(8*cw)) (bs : List Byte) :
    (runningSum cw acc bs).toNat = (acc.toNat + (bs.map BitVec.toNat).sum) % 2^(8*cw) := by
  induction bs generalizing acc with
  | nil => simp [runningSum, Nat.mod_eq_of_lt ha]
  | cons b bs ih =>
    have hb := b.isLt
    have hlt : (truncSum cw (acc + b.setWidth 16)).toNat < 2^(8*cw) := by rw [truncSum_toNat hcw]; exact Nat.mod_lt _ (by positivity)
    rw [runningSum, ih _ hlt, truncSum_toNat hcw]
    simp only [BitVec.toNat_add, BitVec.toNat_setWidth, List.map_cons, List.sum_cons]
    rcases hcw with rfl | rfl <;> norm_num at * <;> omega

/-- The computed sum of a frame that FB holds is `sum(F, layout)` (R133). -/
theorem computedSum_frame {s : State} {F : List Byte} (h : FrameIn s F) :
    computedSum s.layout.raw s.fb = frameSum s.layout.raw F := by
  have w := layoutFacts s
  apply BitVec.eq_of_toNat_eq
  rw [computedSum, memRead_frame h _ _ (by have := w.span; have := w.span_le; omega), runningSum_toNat w.cw _ (by simp)]
  simp only [frameSum, spanTotal, BitVec.toNat_ofNat, Nat.zero_mod, Nat.zero_add]
  rcases w.cw with h | h <;> rw [h] <;> norm_num
  omega

/-- The received sum of a frame that FB holds is `rx(F, layout)` (R134). -/
theorem receivedSum_frame {s : State} {F : List Byte} (h : FrameIn s F) :
    receivedSum s.layout.raw s.fb = frameTrailer s.layout.raw F := by
  have w := layoutFacts s
  have hct := w.trailer_le
  rcases w.cw with hc | hc
  · simp [receivedSum, frameTrailer, hc, fbByte_frame h (i := s.layout.raw.ctOff) (by omega)]
  · simp [receivedSum, frameTrailer, hc, fbByte_frame h (i := s.layout.raw.ctOff) (by omega),
      fbByte_frame h (i := s.layout.raw.ctOff + 1) (by omega)]

/-- The measurement of a frame that FB holds (R139). -/
theorem measurement_frame {s : State} {F : List Byte} (h : FrameIn s F) :
    measurement s.layout.raw s.fb = be16 (frameByte F s.layout.raw.vHi) (frameByte F s.layout.raw.vLo) := by
  have w := layoutFacts s
  simp [measurement, fbByte_frame h w.vHi_lt, fbByte_frame h w.vLo_lt]

end Sys2Proof.Machine
end

