-- ==== Sys2Proof/Laws/Paths.lean ====
section
/-! SUPPORT. A pseudo-operation is a path of single operations (spec/30_encoding.md R103): whatever every single
operation keeps, every pseudo-operation keeps. -/

namespace Sys2Proof.Machine

/-- The single operations the paths are made of. -/
def pathOps : List Instr := [.tick, .flush, .read, .hdrchk, .sumchk, .extract, .report]

/-- `t` is reached from `s` by single operations of the paths, each answering a next state. -/
inductive OpSteps : State → State → Prop
  | refl (s : State) : OpSteps s s
  | cons {s u t : State} (i : Instr) (hi : i ∈ pathOps) (h : exec i s = .next u) (rest : OpSteps u t) : OpSteps s t

theorem OpSteps.trans {s u t : State} (h : OpSteps s u) (k : OpSteps u t) : OpSteps s t := by
  induction h with
  | refl => exact k
  | cons i hi h _ ih => exact .cons i hi h (ih k)

theorem OpSteps.single {s t : State} (i : Instr) (hi : i ∈ pathOps) (h : exec i s = .next t) : OpSteps s t :=
  .cons i hi h (.refl t)

/-- A path's two parts in turn. -/
theorem OpSteps.thenIf {s t : State} {r : Result} {sel : State → Bool} {f : State → Result}
    (hr : ∀ u, r = .next u → OpSteps s u) (hf : ∀ u v, f u = .next v → OpSteps u v)
    (h : thenIf r sel f = .next t) : OpSteps s t := by
  obtain ⟨u, hu, ⟨-, rfl⟩ | ⟨-, hv⟩⟩ := thenIf_next.1 h
  · exact hr _ hu
  · exact (hr u hu).trans (hf u t hv)

/-- Repeated FLUSH is a sequence of FLUSH operations. -/
theorem flushAll_steps (n : Nat) {s t : State} (h : flushAll n s = .next t) : OpSteps s t := by
  induction n generalizing s t with
  | zero => simp only [flushAll, Host.Outcome.next.injEq] at h; exact h ▸ .refl s
  | succ n ih => exact .thenIf (fun u hu => .single .flush (by decide) hu) (fun u v hv => ih hv) h

/-- Repeated READ is a sequence of READ operations. -/
theorem readAll_steps (n : Nat) {s t : State} (h : readAll n s = .next t) : OpSteps s t := by
  induction n generalizing s t with
  | zero => simp only [readAll, Host.Outcome.next.injEq] at h; exact h ▸ .refl s
  | succ n ih => exact .thenIf (fun u hu => .single .read (by decide) hu) (fun u v hv => ih hv) h

theorem execAcquire_steps {s t : State} (h : execAcquire s = .next t) : OpSteps s t :=
  .thenIf (fun _ hu => flushAll_steps _ hu) (fun _ _ hv => readAll_steps _ hv) (whenSelected_next.1 h).2

theorem execValidate_steps {s t : State} (h : execValidate s = .next t) : OpSteps s t :=
  .thenIf (fun _ hu => .thenIf (fun _ hv => .single .hdrchk (by decide) hv)
    (fun _ _ hv => .single .sumchk (by decide) hv) hu) (fun _ _ hv => .single .extract (by decide) hv)
    (whenSelected_next.1 h).2

theorem execPoll_steps {s t : State} (h : execPoll s = .next t) : OpSteps s t :=
  .thenIf (fun _ hu => .thenIf (fun _ hv => .thenIf (fun _ hw => .single .tick (by decide) hw)
      (fun _ _ hw => execAcquire_steps hw) hv) (fun _ _ hw => execValidate_steps hw) hu)
    (fun _ _ hv => .single .report (by decide) hv) (whenSelected_next.1 h).2

/-- Whatever every single operation of the paths keeps, a sequence of them keeps. -/
theorem OpSteps.preserves {P : State → Prop}
    (hP : ∀ i ∈ pathOps, ∀ s t, P s → exec i s = .next t → P t) {s t : State} (h : OpSteps s t) (hs : P s) : P t := by
  induction h with
  | refl => exact hs
  | cons i hi h _ ih => exact ih (hP i hi _ _ hs h)

/-- What holds at the start and is kept by every step holds after every run. -/
theorem run_preserves {P : State → Prop} (hP : ∀ s t, P s → step s = .next t → P t) (n : Nat) {s t : State}
    (hs : P s) (h : run n s = .next t) : P t := by
  induction n generalizing s with
  | zero => simp only [run, Host.Outcome.next.injEq] at h; exact h ▸ hs
  | succ n ih =>
    simp only [run] at h
    cases hst : step s with
    | next u => rw [hst] at h; exact ih (hP s u hs hst) h
    | fault e => rw [hst] at h; simp at h
    | refused e => rw [hst] at h; simp at h

end Sys2Proof.Machine
end

