-- ==== Sys2Proof/Laws/Cycle.lean ====
section
/-! SUPPORT. FLUSH as far as it goes, READ until it is answered, and the fuel the pseudo-operations give them. -/

namespace Sys2Proof.Machine

/-- FLUSH on an empty transport ends (R257). -/
theorem execFlush_empty {s : State} (h : s.isAt .ready .reading .p0 = true) (hb : s.transport.arrive.buffer = []) :
    execFlush s = .next (((s.setTransport s.transport.arrive).emit (.avail 0)).goTo .reading .p1) := by
  simp [execFlush, h, whenSelected_true, avail_eq, hb]

/-- FLUSH on a transport with a byte takes the oldest (R257). -/
theorem execFlush_byte {s : State} (h : s.isAt .ready .reading .p0 = true) {b : Byte} {bs : List Byte}
    (hb : s.transport.arrive.buffer = b :: bs) :
    execFlush s = .next ((((s.setTransport s.transport.arrive).emit (.avail (bs.length + 1))).setTransport
      s.transport.discardOne).emit (.rdbyte b)) := by
  simp [execFlush, h, whenSelected_true, avail_eq, hb, rdbyte, Transport.discardOne]

@[simp] theorem Transport.discardOne_answers (tr : Transport) : tr.discardOne.answers = tr.answers := by
  simp [Transport.discardOne]

@[simp] theorem Transport.discardOne_arrivals (tr : Transport) : tr.discardOne.arrivals = tr.arrivals.tail := by
  simp [Transport.discardOne]

@[simp] theorem Transport.discardOne_steady (tr : Transport) : tr.discardOne.steady = tr.steady := by
  simp [Transport.discardOne]

/-- The buffer after an arrival is the old one and the burst, when the position is inside what has arrived. -/
theorem Transport.arrive_buffer_length_le (tr : Transport) :
    tr.arrive.buffer.length ≤ tr.buffer.length + (tr.arrivals.headD tr.steady).length := by
  simp only [Transport.buffer_length, Transport.arrive_received, Transport.arrive_consumed, List.length_append]
  omega

/-- One iteration that finds a byte uses up fuel, unless the transport delivers for ever. -/
theorem Transport.discardOne_fuel (tr : Transport) (hb : tr.arrive.buffer ≠ [])
    (h : tr.arrivals ≠ [] ∨ tr.steady = []) : tr.discardOne.flushFuel + 1 ≤ tr.flushFuel := by
  have h1 := tr.arrive_buffer_length_le
  have h2 : tr.discardOne.buffer.length = tr.arrive.buffer.length - 1 := by
    rw [Transport.discardOne, Transport.consume_buffer, List.length_drop]
  have h3 : tr.arrive.buffer.length ≠ 0 := by simpa using hb
  simp only [Transport.flushFuel, h2, Transport.discardOne_arrivals]
  rcases ha : tr.arrivals with _ | ⟨x, xs⟩
  · simp [ha] at h h1 ⊢; simp [h] at h1; omega
  · simp [ha] at h1 ⊢; omega

/-- A transport whose script is used up, that delivers at every call and has a byte, never lets FLUSH end. -/
theorem Transport.not_flushEnds_of_steady {tr : Transport} (ha : tr.arrivals = []) (hs : tr.steady ≠ [])
    (hb : tr.arrive.buffer ≠ []) : ¬ FlushEnds tr := by
  rintro ⟨m, hm⟩
  induction m generalizing tr with
  | zero => exact hb hm
  | succ m ih =>
    refine ih (by simp [ha]) (by simpa using hs) ?_ hm
    have hs' : tr.steady.length ≠ 0 := by simpa using hs
    rw [Ne, Transport.buffer_eq_nil] at hb ⊢
    simp [Transport.arrive_received, Transport.discardOne, Transport.buffer_length, ha] at hb ⊢
    omega

/-- Where FLUSH has found a byte and ends some time, it ends from where it is then. -/
theorem FlushEnds.discardOne {tr : Transport} (h : FlushEnds tr) (hb : tr.arrive.buffer ≠ []) :
    FlushEnds tr.discardOne := by
  obtain ⟨m, hm⟩ := h
  cases m with
  | zero => exact absurd hm hb
  | succ m => exact ⟨m, hm⟩

/-- With enough fuel FLUSH runs to its end when it has one: PH is 1, only the transport and transport transactions have
changed, and no answer of RDEXACT is used up (R111). -/
theorem flushAll_of_flushEnds (n : Nat) {s : State} (h : s.isAt .ready .reading .p0 = true)
    (he : FlushEnds s.transport) (hn : s.transport.flushFuel ≤ n) :
    ∃ tr ts, flushAll n s = .next { s with ph := .p1, transport := tr, out := s.out ++ ts } ∧
      tr.answers = s.transport.answers ∧ reports ts = [] ∧ readResults ts = [] := by
  induction n generalizing s with
  | zero => simp [Transport.flushFuel] at hn
  | succ n ih =>
    have hat := (State.isAt_iff ..).1 h
    rcases hb : s.transport.arrive.buffer with _ | ⟨b, bs⟩
    · refine ⟨s.transport.arrive, [.avail 0], ?_, by simp, rfl, rfl⟩
      rw [flushAll, execFlush_empty h hb, thenIf_of_not_sel _ (by simp [State.isAt])]
      simp [State.goTo, State.emit, State.setTransport, hat.2.1]
    · have hb' : s.transport.arrive.buffer ≠ [] := by simp [hb]
      have hq : s.transport.arrivals ≠ [] ∨ s.transport.steady = [] := by
        by_contra hc
        simp only [not_or, not_not] at hc
        exact Transport.not_flushEnds_of_steady hc.1 hc.2 hb' he
      have hf := s.transport.discardOne_fuel hb' hq
      obtain ⟨tr, ts, h1, h2, h3, h4⟩ := ih
        (s := (((s.setTransport s.transport.arrive).emit (.avail (bs.length + 1))).setTransport
          s.transport.discardOne).emit (.rdbyte b)) (by simpa [State.isAt] using h) (by simpa using he.discardOne hb')
        (by simp; omega)
      refine ⟨tr, [.avail (bs.length + 1), .rdbyte b] ++ ts, ?_, by simpa using h2, by simpa [reports] using h3,
        by simpa [readResults] using h4⟩
      rw [flushAll, execFlush_byte h hb, thenIf_of_sel _ (by simpa [State.isAt] using h), h1]
      simp [State.emit, State.setTransport]

/-- With enough fuel READ runs to its answer when there is one (R257): a transport error, or bytes to accept. -/
theorem readAll_of_readReturns (n : Nat) {s : State} (h : s.isAt .ready .reading .p1 = true)
    (he : ReadReturns s.transport) (hn : s.transport.answers.length ≤ n) :
    ∃ tr, readAll n s =
        .next (raise .transportError ((s.setTransport tr).emit (.rdexact s.layout.raw.l .failed))) ∨
      ∃ bs, bs.length ≤ s.layout.raw.l ∧ readAll n s =
        .next (acceptRead bs ((s.setTransport tr).emit (.rdexact s.layout.raw.l (.bytes bs)))) := by
  induction n generalizing s with
  | zero =>
    obtain ⟨a, ha, -⟩ := he
    have : s.transport.answers = [] := by simpa using hn
    simp [this] at ha
  | succ n ih =>
    rcases ha : s.transport.answers with _ | ⟨_ | k | lost, as⟩
    · obtain ⟨a, ha', -⟩ := he
      simp [ha] at ha'
    · obtain ⟨tr, hh⟩ := ih (s := s.setTransport s.transport.arrive.answerTaken) (by simpa [State.isAt] using h)
        (by
          obtain ⟨a, hm, hne⟩ := he
          refine ⟨a, ?_, hne⟩
          rw [ha] at hm
          simpa [ha, hne] using hm)
        (by simp [ha] at hn ⊢; omega)
      have hr : execRead s = .next (s.setTransport s.transport.arrive.answerTaken) := by
        simp [execRead, h, whenSelected_true, rdexact, ha]
      refine ⟨tr, ?_⟩
      rw [readAll, hr, thenIf_of_sel _ (by simpa [State.isAt] using h)]
      exact hh
    · refine ⟨s.transport.arrive.answerTaken.consume (min k s.layout.raw.l), .inr
        ⟨s.transport.arrive.buffer.take (min k s.layout.raw.l), by simp, ?_⟩⟩
      rw [readAll, show execRead s = .next _ by simp [execRead, h, whenSelected_true, rdexact, ha]; rfl,
        thenIf_of_not_sel]
      unfold acceptRead
      dsimp only
      split <;> simp [State.isAt, raise]
    · refine ⟨s.transport.arrive.answerTaken.consume lost, .inl ?_⟩
      rw [readAll, show execRead s = .next _ by simp [execRead, h, whenSelected_true, rdexact, ha]; rfl,
        thenIf_of_not_sel _ (by simp [State.isAt, raise])]

end Sys2Proof.Machine
end

