-- ==== Sys2Proof/Laws/Decode.lean ====
section
/-! SUPPORT. The decoder's small lemmas: what the command port presents is decoded by its dispatch word, and packed
numbers are read back. -/

namespace Sys2Proof

/-- The command port's presentation of a dispatch word is decoded by that word. -/
theorem decode_presentXdw (x : Xdw) (ok : Bool) : decode (presentXdw x ok) = decodeXdw x ok := by
  have h : ∀ x : Xdw, ∀ ok : Bool,
      let w : BitVec 16 := (0#6 ++ BitVec.ofBool ok ++ x)
      let v : BitVec 16 := w.extractLsb' 8 8 ++ w.extractLsb' 0 8
      v.extractLsb' 10 6 = 0#6 ∧ v.extractLsb' 0 9 = x ∧ v.getLsbD 9 = ok := by decide +kernel
  obtain ⟨h1, h2, h3⟩ := h x ok
  simp only [decode, presentXdw, decodeCommand]
  rw [if_pos h1, h2, h3]

/-- A byte is what the number of its value gives back. -/
theorem leBytes_leNat (bs : List Byte) : leBytes bs.length (leNat bs) = bs := by
  induction bs with
  | nil => rfl
  | cons b bs ih =>
    have hb := b.isLt
    have h1 : BitVec.ofNat 8 (b.toNat + 256 * leNat bs) = b := by
      apply BitVec.eq_of_toNat_eq
      simp only [BitVec.toNat_ofNat]; omega
    have h2 : (b.toNat + 256 * leNat bs) / 256 = leNat bs := by omega
    simp only [List.length_cons, leBytes, leNat, h1, h2, ih]

/-- The words packed in a number are read back. -/
theorem unpackWords_packWords (ws : List Xdw) : unpackWords ws.length (packWords ws) = ws := by
  induction ws with
  | nil => rfl
  | cons w ws ih =>
    have hw := w.isLt
    have h1 : BitVec.ofNat 9 (w.toNat + 512 * packWords ws) = w := by
      apply BitVec.eq_of_toNat_eq
      simp only [BitVec.toNat_ofNat]; omega
    have h2 : (w.toNat + 512 * packWords ws) / 512 = packWords ws := by omega
    simp only [List.length_cons, unpackWords, packWords, h1, h2, ih]

/-- A number is written in as many bytes as asked for. -/
theorem leBytes_length (k n : Nat) : (leBytes k n).length = k := by
  induction k generalizing n with
  | zero => rfl
  | succ k ih => simp [leBytes, ih]

end Sys2Proof
end

