-- ==== Sys2Proof/Laws/PerInstr.lean ====
section
/-! SUPPORT. Statements made instruction by instruction. EncodingShape: a well-formed operation is presented in as many
bytes as its row of spec/opcode_table.json takes (log entry 10). -/

namespace Sys2Proof

/-- The bytes an operation's presentation takes: 9 bits in 2 bytes for a dispatch row; 18, 27 and 63 bits in 3, 4 and 8
bytes for the three paths; 32 bytes for FRAME_A. -/
def Laws.EncodingShape.byteCount : Instr → Nat
  | .reset | .setup _ | .tick | .describe | .wait | .ignoreSetupReady | .ignoreSetupFailed | .ignoreTickUninit
  | .ignoreTickFailed | .flush | .read | .hdrchk | .sumchk | .extract | .report => 2
  | .acquire => 3
  | .validate => 4
  | .poll => 8
  | .frameA _ _ _ _ _ _ => 32

/-- A well-formed operation's encoding has its row's number of bytes. -/
def Laws.EncodingShape.Statement (i : Instr) : Prop :=
  i.wf = true → (encode i).bytes.length = Laws.EncodingShape.byteCount i

theorem Laws.EncodingShape.reset : Laws.EncodingShape.Statement .reset := fun _ => rfl
theorem Laws.EncodingShape.setup (transportOk : Bool) : Laws.EncodingShape.Statement (.setup transportOk) := fun _ => rfl
theorem Laws.EncodingShape.tick : Laws.EncodingShape.Statement .tick := fun _ => rfl
theorem Laws.EncodingShape.describe : Laws.EncodingShape.Statement .describe := fun _ => rfl
theorem Laws.EncodingShape.wait : Laws.EncodingShape.Statement .wait := fun _ => rfl
theorem Laws.EncodingShape.ignoreSetupReady : Laws.EncodingShape.Statement .ignoreSetupReady := fun _ => rfl
theorem Laws.EncodingShape.ignoreSetupFailed : Laws.EncodingShape.Statement .ignoreSetupFailed := fun _ => rfl
theorem Laws.EncodingShape.ignoreTickUninit : Laws.EncodingShape.Statement .ignoreTickUninit := fun _ => rfl
theorem Laws.EncodingShape.ignoreTickFailed : Laws.EncodingShape.Statement .ignoreTickFailed := fun _ => rfl
theorem Laws.EncodingShape.flush : Laws.EncodingShape.Statement .flush := fun _ => rfl
theorem Laws.EncodingShape.read : Laws.EncodingShape.Statement .read := fun _ => rfl
theorem Laws.EncodingShape.hdrchk : Laws.EncodingShape.Statement .hdrchk := fun _ => rfl
theorem Laws.EncodingShape.sumchk : Laws.EncodingShape.Statement .sumchk := fun _ => rfl
theorem Laws.EncodingShape.extract : Laws.EncodingShape.Statement .extract := fun _ => rfl
theorem Laws.EncodingShape.report : Laws.EncodingShape.Statement .report := fun _ => rfl
theorem Laws.EncodingShape.acquire : Laws.EncodingShape.Statement .acquire := fun _ => rfl
theorem Laws.EncodingShape.validate : Laws.EncodingShape.Statement .validate := fun _ => rfl
theorem Laws.EncodingShape.poll : Laws.EncodingShape.Statement .poll := fun _ => rfl
theorem Laws.EncodingShape.frameA (a : List Byte) (h l : Byte) (b : List Byte) (c d : Byte) :
    Laws.EncodingShape.Statement (.frameA a h l b c d) := by
  intro h
  simp only [Instr.wf, Bool.and_eq_true, decide_eq_true_eq] at h
  simp [encode, frameABytes, byteCount, h]

end Sys2Proof
end

