-- ==== Sys2Proof/Tests/Slice0.lean ====
section
/-! SUPPORT. Small tests whose expected values are those of spec/95_test_vectors.md (named T1 to T52, S1 to S10 there),
and for every statement with hypotheses a concrete case that meets them. -/

namespace Sys2Proof.Tests

open Sys2Proof.Machine

/-! ### Cases -/

/-- The answer is a next state with this property. -/
def answers (r : Result) (p : State → Bool) : Bool :=
  match r with
  | .next t => p t
  | .fault _ => false
  | .refused _ => false

/-- The transport of spec/95_test_vectors.md section 0: `stale` is buffered, `incoming` arrives after the flush. -/
def scripted (stale incoming : List Byte) (a : ReadAnswer) : Transport :=
  ⟨stale, 0, List.replicate (stale.length + 1) [] ++ [incoming], [], [a]⟩

/-- T1, the base frame of spec/95_test_vectors.md. -/
def frameT1 : List Byte := [0x42, 0x4D, 0x00, 0x1C, 0x00, 0x05, 0x01, 0x2C] ++ List.replicate 22 0x00 ++ [0x00, 0xDD]

/-- A state at (LC, ST, PH) with nothing else than reset leaves. -/
def stateAt (lc : Lifecycle) (st : CycleState) (ph : Phase) : State := { State.reset with lc := lc, st := st, ph := ph }

/-- Ready and Idle. -/
def idleReady : State := stateAt .ready .idle .p0

/-- Failed and Idle, as SETUP leaves it. -/
def idleFailed : State := { stateAt .failed .idle .p0 with fk := .setupFailure }

/-- In Reading with this transport. -/
def inReading (ph : Phase) (tr : Transport) : State := { stateAt .ready .reading ph with transport := tr }

/-- In Validating with this layout and this frame. -/
def inValidating (c : WfLayout) (ph : Phase) (F : List Byte) : State :=
  { stateAt .ready .validating ph with layout := c, fb := storeBytes [] 0 F, cnt := some (BitVec.ofNat 16 F.length) }

/-- In Validating with T1 in layout A, the header checked. -/
def headerDone : State := { inValidating Config.wfLayoutA .p1 frameT1 with hok := true }

/-- In Reporting with T1's value. -/
def withValue : State :=
  { inValidating Config.wfLayoutA .p0 frameT1 with
    st := .reporting, hok := true, sok := true, outv := true, acc := some 221, rxsum := some 221, meas := some 300 }

/-- In Reporting with a failure recorded. -/
def withFailure (r : Record) : State := raise r (stateAt .ready .reading .p1)

/-- The same state with these inputs still to come. -/
def given (s : State) (is : List Input) : State := { s with inputs := is }

/-- A command with the RESET line low. -/
def cmd (ev : Event) : Input := .command ⟨false, ev⟩

/-- A layout with the proof that it is well formed. -/
def layoutOf (c : FrameLayout) (h : c.wf = true) : WfLayout := ⟨c, h⟩

/-- ALE of spec/95_test_vectors.md. -/
def layoutALE : WfLayout := layoutOf { Config.layoutA with cend := .little } (by decide)
/-- AIN of spec/95_test_vectors.md. -/
def layoutAIN : WfLayout := layoutOf { Config.layoutA with csEnd := 32 } (by decide)
/-- B0 of spec/95_test_vectors.md. -/
def layoutB0 : WfLayout := layoutOf { Config.layoutA with cw := 1, ctOff := 31 } (by decide)
/-- B2 of spec/95_test_vectors.md. -/
def layoutB2 : WfLayout := layoutOf { Config.layoutA with cw := 1, csEnd := 32, ctOff := 31 } (by decide)
/-- AH0 of spec/95_test_vectors.md. -/
def layoutAH0 : WfLayout := layoutOf { Config.layoutA with hdr := [] } (by decide)
/-- W of spec/95_test_vectors.md. -/
def layoutW : WfLayout := layoutOf { Config.layoutA with l := 280, csEnd := 278, ctOff := 278 } (by decide)
/-- W1 of spec/95_test_vectors.md. -/
def layoutW1 : WfLayout := layoutOf { Config.layoutA with l := 280, cw := 1, csEnd := 278, ctOff := 279 } (by decide)

/-! ### Well-formedness: each clause of spec/00_scope.md R9 refuses an ill-formed layout -/

theorem test_wf_refuses_zero_length : (FrameLayout.mk 0 [] 1 .big 0 0 0 0 0).wf = false := by decide
theorem test_wf_refuses_length_65536 : ({ Config.layoutA with l := 65536 } : FrameLayout).wf = false := by decide
theorem test_wf_accepts_length_65535 : ({ Config.layoutA with l := 65535 } : FrameLayout).wf = true := by decide
theorem test_wf_refuses_long_header :
    ({ Config.layoutA with hdr := List.replicate 33 0 } : FrameLayout).wf = false := by decide
theorem test_wf_refuses_width_three : ({ Config.layoutA with cw := 3, ctOff := 0 } : FrameLayout).wf = false := by decide
theorem test_wf_refuses_width_zero : ({ Config.layoutA with cw := 0 } : FrameLayout).wf = false := by decide
theorem test_wf_refuses_span_backwards : ({ Config.layoutA with csStart := 31 } : FrameLayout).wf = false := by decide
theorem test_wf_refuses_span_beyond_frame : ({ Config.layoutA with csEnd := 33 } : FrameLayout).wf = false := by decide
theorem test_wf_refuses_trailer_beyond_frame : ({ Config.layoutA with ctOff := 31 } : FrameLayout).wf = false := by decide
theorem test_wf_refuses_high_index : ({ Config.layoutA with vHi := 32 } : FrameLayout).wf = false := by decide
theorem test_wf_refuses_low_index : ({ Config.layoutA with vLo := 32 } : FrameLayout).wf = false := by decide
theorem test_wf_refuses_short_frameA : (Instr.frameA [1, 2, 3] 0 0 (List.replicate 22 0) 0 0).wf = false := by decide
theorem test_wf_refuses_long_frameA : (Instr.frameA [1, 2, 3, 4] 0 0 (List.replicate 23 0) 0 0).wf = false := by decide

/-! ### Decoding: words written out from spec/30_encoding.md R100, R103 and R81 -/

/-- Format command. RESET is bit 8 alone, the rest don't care; SETUP's operand is beside the word. -/
theorem test_words_command :
    decodeTableWord 9 0b100000000 = some .reset ∧ decodeTableWord 9 0b110111011 = some .reset ∧
    decodeTableWord 9 0b000000001 = some (.setup false) ∧ decodeTableWord 16 0b1000000001 = some (.setup true) ∧
    decodeTableWord 9 0b001000010 = some .tick ∧ decodeTableWord 9 0b010000011 = some .describe := by decide

/-- Formats idle and ignore. -/
theorem test_words_idle_and_ignore :
    decodeTableWord 9 0b001000000 = some .wait ∧ decodeTableWord 9 0b000000000 = some .wait ∧
    decodeTableWord 9 0b001000001 = some .ignoreSetupReady ∧ decodeTableWord 9 0b010000001 = some .ignoreSetupFailed ∧
    decodeTableWord 9 0b000000010 = some .ignoreTickUninit ∧
    decodeTableWord 9 0b010000010 = some .ignoreTickFailed := by decide

/-- Format phase, with the dropped command at several values (T50 to T52). -/
theorem test_words_phase :
    decodeTableWord 9 0b001010010 = some .flush ∧ decodeTableWord 9 0b001010100 = some .read ∧
    decodeTableWord 9 0b001100000 = some .hdrchk ∧ decodeTableWord 9 0b001100111 = some .sumchk ∧
    decodeTableWord 9 0b001101000 = some .extract ∧ decodeTableWord 9 0b001110001 = some .report := by decide

/-- The three paths, their dispatch words from the lowest bits on. -/
theorem test_words_path :
    decodeTableWord 24 (0x050 + 0x054 * 2 ^ 9) = some .acquire ∧
    decodeTableWord 32 (0x060 + 0x064 * 2 ^ 9 + 0x068 * 2 ^ 18) = some .validate ∧
    decodeTableWord 64 (0x042 + 0x050 * 2 ^ 9 + 0x054 * 2 ^ 18 + 0x060 * 2 ^ 27 + 0x064 * 2 ^ 36 + 0x068 * 2 ^ 45 +
      0x070 * 2 ^ 54) = some .poll := by decide +kernel

/-- FRAME_A: T1's 32 bytes, index 0 most significant. -/
theorem test_words_frame :
    decodeTableWord 256 0x424D001C0005012C00000000000000000000000000000000000000000000_00DD =
      some (.frameA [0x00, 0x1C, 0x00, 0x05] 0x01 0x2C (List.replicate 22 0x00) 0x00 0xDD) := by decide +kernel

/-- Words that select nothing: a phase that LC does not allow, PH = 3, LC = 3 (R101). -/
theorem test_words_without_operation :
    decodeTableWord 9 0b000010000 = none ∧ decodeTableWord 9 0b001011100 = none ∧ decodeTableWord 9 0b011000000 = none ∧
    decodeTableWord 9 0b011000011 = none ∧ decodeTableWord 16 0b10000001000010 = none ∧
    decodeTableWord 24 0xFFFFFF = none := by decide

/-! ### One step of each operation -/

/-- T40. -/
theorem test_reset : answers (step (given headerDone [.command ⟨true, .tick⟩])) (fun t =>
    t.lc == .uninit && t.st == .idle && t.ph == .p0 && t.fb == [] && !t.hok && t.out == []) = true := by decide +kernel

/-- T41. -/
theorem test_setup_ok : answers (step (given State.reset [cmd (.setup true)])) (fun t =>
    t.lc == .ready && t.st == .idle && t.out == []) = true := by decide +kernel
/-- T42. -/
theorem test_setup_fail : answers (step (given State.reset [cmd (.setup false)])) (fun t =>
    t.lc == .failed && t.fk == .setupFailure && t.out == [.diag .setupFailure]) = true := by decide +kernel

/-- T44, after a cycle that left its flags set. -/
theorem test_tick : answers (step (given { idleReady with hok := true, fk := .badChecksum } [cmd .tick])) (fun t =>
    t.st == .reading && t.ph == .p0 && !t.hok && t.fk == .none && t.out == []) = true := by decide +kernel

/-- T48. -/
theorem test_describe : answers (step (given idleFailed [cmd .describe])) (fun t =>
    t.lc == .failed && t.st == .idle && t.out.length == 1) = true := by decide +kernel

/-- T49. -/
theorem test_wait : answers (step idleReady) (fun t => t == idleReady) = true := by decide +kernel

/-- T45, T47, T43, T46. -/
theorem test_ignore_setup_ready :
    answers (step (given idleReady [cmd (.setup true)])) (fun t => t == idleReady) = true := by decide +kernel
theorem test_ignore_setup_failed :
    answers (step (given idleFailed [cmd (.setup true)])) (fun t => t == idleFailed) = true := by decide +kernel
theorem test_ignore_tick_uninit :
    answers (step (given State.reset [cmd .tick])) (fun t => t == State.reset) = true := by decide +kernel
theorem test_ignore_tick_failed :
    answers (step (given idleFailed [cmd .tick])) (fun t => t == idleFailed) = true := by decide +kernel

/-- T50: the tick is dropped, the flush ends. -/
theorem test_flush_ends : answers (step (given (inReading .p0 Transport.empty) [cmd .tick])) (fun t =>
    t.st == .reading && t.ph == .p1 && t.out == [.avail 0]) = true := by decide +kernel
/-- T22's first iteration: the oldest byte goes first. -/
theorem test_flush_discards_oldest :
    answers (exec .flush (inReading .p0 (scripted [0xDE, 0xAD, 0xBE, 0xEF, 0x42] frameT1 (.ok 32)))) (fun t =>
      t.ph == .p0 && t.out == [.avail 5, .rdbyte 0xDE] && t.transport.consumed == 1) = true := by decide +kernel

/-- T25: 64 bytes are there, 32 are taken. -/
theorem test_read_frame :
    answers (exec .read (inReading .p1 ⟨frameT1 ++ frameT1, 0, [], [], [.ok 64]⟩)) (fun t =>
      t.st == .validating && t.ph == .p0 && t.cnt == some 32 && Memory.read t.fb 31 == some 0xDD &&
      t.transport.buffer == frameT1) = true := by decide +kernel
/-- T21c and T24b. -/
theorem test_read_failures :
    answers (exec .read (inReading .p1 ⟨frameT1.take 31, 0, [], [], [.ok 32]⟩)) (fun t =>
      t.st == .reporting && t.fk == .transportIncomplete && t.cnt == some 31 && t.fb == []) = true ∧
    answers (exec .read (inReading .p1 ⟨frameT1.take 5, 0, [], [], [.failed 5]⟩)) (fun t =>
      t.st == .reporting && t.fk == .transportError && t.cnt == none) = true := by decide +kernel

/-- T1 passes. -/
theorem test_hdrchk_pass : answers (exec .hdrchk (inValidating Config.wfLayoutA .p0 frameT1)) (fun t =>
    t.hok && t.st == .validating && t.ph == .p1) = true := by decide +kernel
/-- T4: the second header byte differs. -/
theorem test_hdrchk_raises :
    answers (exec .hdrchk (inValidating Config.wfLayoutA .p0 (frameT1.set 1 0x4C))) (fun t =>
      t.fk == .badHeader && t.da == some (.bytes [0x42, 0x4D]) && t.db == some (.bytes [0x42, 0x4C]) &&
      t.st == .reporting) = true := by decide +kernel

/-- T8 and T8b: the trailer's byte order is the layout's. -/
theorem test_sumchk_byte_order :
    answers (exec .sumchk (inValidating Config.wfLayoutA .p1 ((frameT1.set 30 0xDD).set 31 0x00))) (fun t =>
      t.fk == .badChecksum && t.da == some (.sum 221) && t.db == some (.sum 56576)) = true ∧
    answers (exec .sumchk (inValidating layoutALE .p1 ((frameT1.set 30 0xDD).set 31 0x00))) (fun t =>
      t.sok && t.ph == .p2 && t.acc == some 221 && t.rxsum == some 221) = true := by decide +kernel
/-- T9's frame: a true sum of 70000 wraps to 4464 in 16 bits and to 112 in 8 bits (S3, T9, T10). -/
theorem test_sum_wraps :
    let F : List Byte := [0x42, 0x4D] ++ List.replicate 273 0xFF ++ [0xF2, 0x00, 0x00, 0x11, 0x70]
    runningSum layoutW.raw.cw 0 (F.take 278) = 4464 ∧ frameTrailer layoutW.raw F = 4464 ∧
    runningSum layoutW1.raw.cw 0 (F.take 278) = 112 ∧ spanTotal layoutW.raw F = 70000 := by decide +kernel

/-- T1: 0x01, 0x2C is 300 (S4). -/
theorem test_extract : answers (exec .extract (inValidating Config.wfLayoutA .p2 frameT1)) (fun t =>
    t.meas == some 300 && t.outv && t.st == .reporting && t.ph == .p0) = true := by decide +kernel

/-- T52, with T1's value. -/
theorem test_report_value : answers (step (given withValue [cmd (.setup true)])) (fun t =>
    t.st == .idle && t.lc == .ready && t.meas == none && t.fb == [] && t.out == [.publish (some 300)]) = true := by
  decide +kernel
/-- The record comes before the invalid marker (T34). -/
theorem test_report_failure : answers (exec .report (withFailure (.badChecksum 222 221))) (fun t =>
    t.st == .idle && t.da == none && t.out == [.diag (.badChecksum 222 221), .publish none]) = true := by decide +kernel

/-- T22: none of the five junk bytes is in the frame. -/
theorem test_acquire :
    answers (exec .acquire (inReading .p0 (scripted [0xDE, 0xAD, 0xBE, 0xEF, 0x42] frameT1 (.ok 32)))) (fun t =>
      t.st == .validating && memRead t.fb 0 32 == frameT1 && t.out.length == 12 && t.transport.consumed == 37) =
      true := by decide +kernel

/-- T5: the header wins over the checksum; T14b: a trailer inside its own span that any value passes. -/
theorem test_validate :
    validateFrame Config.layoutA ((frameT1.set 0 0x00).set 31 0x22) = .badHeader [0x42, 0x4D] [0x00, 0x4D] ∧
    answers (exec .validate (inValidating layoutB2 .p0 ((frameT1.set 30 0x23).set 31 0xFF))) (fun t =>
      t.meas == some 300 && t.outv && t.hok && t.sok && t.st == .reporting) = true := by decide +kernel

/-- T30 and T33. -/
theorem test_poll :
    answers (exec .poll { idleReady with transport := scripted [0xDE, 0xAD, 0xBE, 0xEF, 0x42] frameT1 (.ok 32) }) (fun t =>
      t.st == .idle && reports t.out == [.publish (some 300)]) = true ∧
    answers (exec .poll { idleReady with transport := scripted [] (frameT1.set 0 0x43) (.ok 32) }) (fun t =>
      t.st == .idle && reports t.out == [.diag (.badHeader [0x42, 0x4D] [0x43, 0x4D]), .publish none]) = true := by
  decide +kernel

/-- T1's bytes arrive in order (R81). -/
theorem test_frameA :
    answers (step (given idleReady [.arrival frameT1])) (fun t =>
      t.transport.received == frameT1 && t.st == .idle && t.out == []) = true := by decide +kernel

/-! ### Witnesses: the invariant in each state of the cycle -/

theorem reset_inv : Inv State.reset :=
  inv_of_idle rfl rfl (by decide) ⟨⟨rfl, rfl, rfl, rfl, rfl, rfl, rfl⟩, fun _ => ⟨rfl, rfl, rfl, rfl⟩, fun h => by cases h⟩

theorem idleReady_inv (is : List Input) : Inv (given idleReady is) :=
  inv_of_idle rfl rfl (Nat.le_refl 0) ⟨⟨rfl, rfl, rfl, rfl, rfl, rfl, rfl⟩, fun h => (by cases h), fun h => (by cases h)⟩

theorem idleFailed_inv (is : List Input) : Inv (given idleFailed is) :=
  inv_of_idle rfl rfl (Nat.le_refl 0) ⟨⟨rfl, rfl, rfl, rfl, rfl, rfl, rfl⟩, fun h => (by cases h), fun _ => ⟨rfl, rfl, rfl, rfl⟩⟩

theorem inReading_inv (ph : Phase) (hp : ph ≠ .p2) (tr : Transport) (ht : tr.consumed ≤ tr.received.length) :
    Inv (inReading ph tr) :=
  inv_of_reading rfl rfl hp ht ⟨⟨rfl, rfl, rfl, rfl, rfl, rfl, rfl⟩, ⟨rfl, rfl, rfl⟩, rfl⟩

theorem frameT1_held (s : State) (h1 : s.layout = Config.wfLayoutA) (h2 : s.fb = storeBytes [] 0 frameT1)
    (h3 : s.cnt = some 32) : HoldsFrame s frameT1 :=
  ⟨by rw [h1]; rfl, h2, by rw [h3, h1]; rfl⟩

theorem inValidating_frame : FrameIn (inValidating Config.wfLayoutA .p0 frameT1) frameT1 :=
  (frameT1_held _ rfl rfl (by decide)).frameIn

theorem withValue_inv : Inv withValue :=
  inv_of_reporting rfl rfl rfl (by decide) (.value frameT1
    ⟨frameT1_held _ rfl rfl (by decide), ⟨by decide +kernel, by decide +kernel⟩, ⟨rfl, rfl, rfl⟩, ⟨rfl, rfl, rfl⟩,
      300, rfl, by decide +kernel⟩)

theorem inValidating_held : HoldsFrame (inValidating Config.wfLayoutA .p0 frameT1) frameT1 :=
  frameT1_held _ rfl rfl (by decide)

/-! ### Witnesses: for each statement with hypotheses, a case that meets them, clause by clause -/

theorem witness_SetupEntersReadyOrFailed :
    (State.reset.lc = .uninit ∧ State.reset.st = .idle ∧ State.reset.ph = .p0) ∧
    (∃ s : State, s.lc ≠ .uninit ∧ s.st = .idle ∧ s.ph = .p0 ∧ s.inputs = .command ⟨false, .setup true⟩ :: []) :=
  ⟨by decide, given idleFailed [cmd (.setup true)], by decide⟩

theorem witness_DescribeReturnsText :
    (State.reset.st = .idle ∧ State.reset.ph = .p0) ∧ ∃ s : State, Inv s ∧ s.st ≠ .idle :=
  ⟨by decide, _, inReading_inv .p0 (by decide) Transport.empty (by decide), by decide⟩

theorem witness_TickStartsCycle : ∃ s : State, s.lc = .ready ∧ s.st = .idle ∧ s.ph = .p0 ∧ Inv s :=
  ⟨given idleReady [], rfl, rfl, rfl, idleReady_inv []⟩

theorem witness_WaitChangesNothing : State.reset.st = .idle ∧ State.reset.ph = .p0 ∧ State.reset.inputs = [] := by decide

theorem witness_IgnoredCommandsLeaveNoTrace :
    (idleReady.st = .idle ∧ idleReady.ph = .p0 ∧ idleReady.lc = .ready) ∧ idleFailed.lc = .failed ∧
    (∃ s, Inv s ∧ ¬ accepted .tick s ∧ s.st = .idle) ∧ (∃ s, Inv s ∧ ¬ accepted .tick s ∧ s.st ≠ .idle) ∧
    (∃ s, Inv s ∧ accepted .tick s) ∧ (∃ s, Inv s ∧ accepted (.setup false) s) ∧ ∃ s, Inv s ∧ accepted .describe s :=
  ⟨by decide, rfl, ⟨_, idleFailed_inv [], fun h => (by cases h.1), rfl⟩,
    ⟨_, inReading_inv .p0 (by decide) Transport.empty (by decide), fun h => (by cases h.2), by decide⟩,
    ⟨_, idleReady_inv [], rfl, rfl⟩, ⟨_, reset_inv, rfl, rfl⟩, ⟨_, idleFailed_inv [], rfl⟩⟩

theorem witness_FlushIteration :
    (∃ s : State, s.lc = .ready ∧ s.st = .reading ∧ s.ph = .p0 ∧ s.transport.arrive.buffer = []) ∧
    (∃ s : State, s.lc = .ready ∧ s.st = .reading ∧ s.ph = .p0 ∧ s.transport.arrive.buffer = 0x42 :: [0x4D]) :=
  ⟨⟨inReading .p0 Transport.empty, by decide⟩, ⟨inReading .p0 ⟨[0x42], 0, [[0x4D]], [], []⟩, by decide⟩⟩

/-- For m = 0 and, with a byte that arrives during the flush, m = 2. -/
theorem witness_FlushDiscardsUntilEmpty :
    (Transport.discard 0 Transport.empty).arrive.buffer = [] ∧
    (∀ j, j < 2 → (Transport.discard j ⟨[0x42], 0, [[], [0x4D], []], [], []⟩).arrive.buffer ≠ []) ∧
    (Transport.discard 2 ⟨[0x42], 0, [[], [0x4D], []], [], []⟩).arrive.buffer = [] := by decide

theorem discard_steady (m : Nat) (tr : Transport) (h1 : tr.arrivals = []) (h2 : tr.steady = [0])
    (h3 : tr.consumed = tr.received.length) : (Transport.discard m tr).arrive.buffer ≠ [] := by
  induction m generalizing tr with
  | zero => simp [Transport.discard, Transport.buffer_eq_nil, Transport.arrive_received, h1, h2, h3]
  | succ m ih =>
    refine ih _ (by simp [h1]) (by simp [h2]) ?_
    simp [Transport.discardOne, Transport.buffer_length, Transport.arrive_received, h1, h2, h3]

theorem witness_FlushNeedNotEnd :
    (∃ t, exec .flush (inReading .p0 Transport.empty) = .next t ∧ t.ph = .p1) ∧
    (OnlyCommands [cmd .tick] ∧ ∀ m, (Transport.discard m ⟨[], 0, [], [0], []⟩).arrive.buffer ≠ []) :=
  ⟨⟨_, rfl, rfl⟩, fun _ h => ⟨.tick, by simpa [cmd] using h⟩, fun m => discard_steady m _ rfl rfl rfl⟩

/-- From Idle with five stale bytes: after 7 steps the flush has ended, after 8 the frame is being validated (P1). -/
theorem witness_StaleBytesNeverEnterFrame :
    let s := given { idleReady with transport := scripted [0xDE, 0xAD, 0xBE, 0xEF, 0x42] frameT1 (.ok 32) } [cmd .tick]
    s.st = .idle ∧ answers (run 7 s) (fun t => t.st == .reading && t.ph == .p1) = true ∧
    answers (run 8 s) (fun t => t.st == .validating) = true := by decide +kernel

/-- The state the previous case starts from meets the invariant. -/
theorem witness_StaleBytes_inv (tr : Transport) (ht : tr.consumed ≤ tr.received.length) (is : List Input) :
    Inv (given { idleReady with transport := tr } is) :=
  inv_of_idle rfl rfl ht ⟨⟨rfl, rfl, rfl, rfl, rfl, rfl, rfl⟩, fun h => (by cases h), fun h => (by cases h)⟩

/-- A whole read, a read one byte short, and a failed read. -/
theorem witness_ReadOperation :
    (let tr : Transport := ⟨frameT1, 0, [], [], [.ok 32]⟩;
      tr.answers = .ok 32 :: [] ∧ (tr.arrive.buffer.take (min 32 32)).length = 32) ∧
    (let tr : Transport := ⟨frameT1.take 31, 0, [], [], [.ok 32]⟩;
      tr.answers = .ok 32 :: [] ∧ (tr.arrive.buffer.take (min 32 32)).length < 32) ∧
    (inReading .p1 ⟨frameT1, 0, [], [], [.failed 5]⟩).transport.answers = .failed 5 :: [] := by decide

theorem witness_FrameIsInOrderOfArrival :
    Inv (inReading .p1 ⟨frameT1, 0, [], [], [.ok 32]⟩) ∧
    answers (exec .read (inReading .p1 ⟨frameT1, 0, [], [], [.ok 32]⟩)) (fun t => t.st == .validating) = true :=
  ⟨inReading_inv _ (by decide) _ (by decide), by decide +kernel⟩

/-- One byte short. -/
theorem witness_IncompleteReadDropsBytes :
    Inv (inReading .p1 ⟨frameT1.take 31, 0, [], [], [.ok 32]⟩) ∧
    min (min 32 32) (inReading .p1 ⟨frameT1.take 31, 0, [], [], [.ok 32]⟩).transport.arrive.buffer.length < 32 :=
  ⟨inReading_inv _ (by decide) _ (by decide), by decide⟩

theorem witness_TransportErrorNeverFrame :
    Inv (inReading .p1 ⟨frameT1, 0, [], [], [.failed 32]⟩) ∧
    (inReading .p1 ⟨frameT1, 0, [], [], [.failed 32]⟩).transport.answers = .failed 32 :: [] :=
  ⟨inReading_inv _ (by decide) _ (by decide), rfl⟩

theorem witness_ReadHoldsWithoutAnswer :
    (inReading .p1 Transport.empty).transport.answers = [] ∧
    (inReading .p1 ⟨[], 0, [], [], [.hold, .ok 32]⟩).transport.answers = .hold :: [.ok 32] := by decide

theorem witness_AcquireIsAcquireFrame :
    let s := inReading .p0 (scripted [0x42] frameT1 (.ok 32))
    s.lc = .ready ∧ s.st = .reading ∧ s.ph = .p0 ∧ FlushEnds s.transport ∧ ReadReturns s.transport :=
  ⟨rfl, rfl, rfl, ⟨1, by decide⟩, .ok 32, by decide, by decide⟩

theorem witness_AcquireIsFlushThenRead :
    let s := inReading .p0 (scripted [0x42] frameT1 (.ok 32))
    (∃ u, flushSteps 2 s = .next u ∧ u.ph = .p1) ∧ s.transport.answers = .ok 32 :: [] ∧ ReadAnswer.ok 32 ≠ .hold :=
  ⟨⟨_, rfl, rfl⟩, rfl, by decide⟩

/-- The header matches, and its last byte differs. -/
theorem witness_HdrchkOperation :
    FrameIn (inValidating Config.wfLayoutA .p0 frameT1) frameT1 ∧ (∀ j, j < 2 → frameT1[j]? = Config.layoutA.hdr[j]?) ∧
    FrameIn (inValidating Config.wfLayoutA .p0 (frameT1.set 1 0x4C)) (frameT1.set 1 0x4C) ∧
    (∃ j, j < 2 ∧ (frameT1.set 1 0x4C)[j]? ≠ Config.layoutA.hdr[j]?) :=
  ⟨inValidating_frame, by decide, HoldsFrame.frameIn ⟨by decide, rfl, by decide⟩, 1, by decide⟩

theorem witness_ComputedSumWraps :
    FrameIn (inValidating Config.wfLayoutA .p0 frameT1) frameT1 ∧ List.Perm [(1 : Byte), 2] [2, 1] :=
  ⟨inValidating_frame, .swap ..⟩

/-- One byte; two bytes in either order. -/
theorem witness_ReceivedSumByWidthAndOrder :
    (∃ s F, FrameIn s F ∧ F[s.layout.raw.ctOff]? = some 0xDD ∧ s.layout.raw.cw = 1) ∧
    (∃ s F, FrameIn s F ∧ F[s.layout.raw.ctOff]? = some 0x00 ∧ F[s.layout.raw.ctOff + 1]? = some 0xDD ∧
      s.layout.raw.cw = 2 ∧ s.layout.raw.cend = .big) ∧
    (∃ s F, FrameIn s F ∧ F[s.layout.raw.ctOff]? = some 0x00 ∧ F[s.layout.raw.ctOff + 1]? = some 0xDD ∧
      s.layout.raw.cw = 2 ∧ s.layout.raw.cend = .little) :=
  ⟨⟨inValidating layoutB0 .p1 frameT1, frameT1, HoldsFrame.frameIn ⟨by decide, rfl, by decide⟩, by decide⟩,
    ⟨inValidating Config.wfLayoutA .p0 frameT1, frameT1, inValidating_frame, by decide⟩,
    ⟨inValidating layoutALE .p1 frameT1, frameT1, HoldsFrame.frameIn ⟨by decide, rfl, by decide⟩, by decide⟩⟩

/-- T1 agrees; T1 with one span byte changed does not. -/
theorem witness_SumchkOperation :
    FrameIn headerDone frameT1 ∧ (headerDone.lc = .ready ∧ headerDone.st = .validating ∧ headerDone.ph = .p1) ∧
    frameSum Config.layoutA frameT1 = frameTrailer Config.layoutA frameT1 ∧
    FrameIn (inValidating Config.wfLayoutA .p1 (frameT1.set 4 1)) (frameT1.set 4 1) ∧
    frameSum Config.layoutA (frameT1.set 4 1) ≠ frameTrailer Config.layoutA (frameT1.set 4 1) :=
  ⟨(frameT1_held _ rfl rfl (by decide)).frameIn, by decide, by decide +kernel,
    HoldsFrame.frameIn ⟨by decide, rfl, by decide⟩, by decide +kernel⟩

theorem witness_ExtractOperation :
    let s := inValidating Config.wfLayoutA .p2 frameT1
    s.lc = .ready ∧ s.st = .validating ∧ s.ph = .p2 ∧ Memory.read s.fb s.layout.raw.vHi = some 0x01 ∧
      Memory.read s.fb s.layout.raw.vLo = some 0x2C := by decide +kernel

/-- Each branch: T1's measurement, T3's header, T2's checksum. -/
theorem witness_ValidateIsValidate :
    (FrameIn (inValidating Config.wfLayoutA .p0 frameT1) frameT1 ∧
      validateFrame Config.layoutA frameT1 = .measurement 300) ∧
    (FrameIn (inValidating Config.wfLayoutA .p0 (frameT1.set 0 0x43)) (frameT1.set 0 0x43) ∧
      validateFrame Config.layoutA (frameT1.set 0 0x43) = .badHeader [0x42, 0x4D] [0x43, 0x4D]) ∧
    (FrameIn (inValidating Config.wfLayoutA .p0 (frameT1.set 4 1)) (frameT1.set 4 1) ∧
      validateFrame Config.layoutA (frameT1.set 4 1) = .badChecksum 222 221) :=
  ⟨⟨inValidating_frame, by decide +kernel⟩, ⟨HoldsFrame.frameIn ⟨by decide, rfl, by decide⟩, by decide +kernel⟩,
    ⟨HoldsFrame.frameIn ⟨by decide, rfl, by decide⟩, by decide +kernel⟩⟩

theorem witness_ChangedHeaderByteIsBadHeader :
    frameT1.length = Config.layoutA.l ∧ Config.layoutA.h ≤ Config.layoutA.l ∧
    frameT1.take Config.layoutA.h = Config.layoutA.hdr ∧
    frameSum Config.layoutA frameT1 = frameTrailer Config.layoutA frameT1 ∧
    1 < Config.layoutA.h ∧ frameT1[1]? ≠ some 0x4C := by decide +kernel

theorem witness_SumchkDependsOnFrameAlone :
    ∃ s1 s2 : State, s1 ≠ s2 ∧ s1.layout = s2.layout ∧ FrameIn s1 frameT1 ∧ FrameIn s2 frameT1 ∧ s1.ph = .p1 ∧ s2.ph = .p1 :=
  ⟨headerDone, { headerDone with transport := scripted [0x42] [] .hold }, by decide +kernel, rfl,
    (frameT1_held _ rfl rfl (by decide)).frameIn, (frameT1_held _ rfl rfl (by decide)).frameIn, rfl, rfl⟩

/-- T14 (8 bits), T15 (16 bits, big) and the same span with a little-endian trailer. -/
theorem witness_TrailerInsideSpan :
    (spanTotal layoutB2.raw ((frameT1.set 30 0x23).set 31 0x5A) = 256 + 0x5A ∧ layoutB2.raw.cw = 1 ∧
      layoutB2.raw.csStart ≤ layoutB2.raw.ctOff ∧ layoutB2.raw.ctOff + layoutB2.raw.cw ≤ layoutB2.raw.csEnd) ∧
    (spanTotal layoutAIN.raw frameT1 = 221 + 0x00 + 0xDD ∧ layoutAIN.raw.cw = 2 ∧ layoutAIN.raw.cend = .big ∧
      layoutAIN.raw.ctOff + layoutAIN.raw.cw ≤ layoutAIN.raw.csEnd) ∧
    (let c : FrameLayout := { layoutAIN.raw with cend := .little };
      c.wf = true ∧ spanTotal c frameT1 = 221 + 0x00 + 0xDD ∧ c.ctOff + c.cw ≤ c.csEnd) := by decide +kernel

/-- A value, and each of the records. -/
theorem witness_ReportOperation :
    (withValue.lc = .ready ∧ withValue.st = .reporting ∧ withValue.ph = .p0 ∧ withValue.outv = true ∧
      withValue.meas = some 300) ∧
    (∀ r : Record, (withFailure r).lc = .ready ∧ (withFailure r).st = .reporting ∧ (withFailure r).ph = .p0 ∧
      (withFailure r).outv = false ∧ (withFailure r).fk = r.kind) ∧
    (withFailure (.badHeader [0x42] [0x43])).da = some (.bytes [0x42]) ∧
    (withFailure (.badHeader [0x42] [0x43])).db = some (.bytes [0x43]) ∧
    (withFailure (.badChecksum 222 221)).da = some (.sum 222) ∧
    (withFailure (.badChecksum 222 221)).db = some (.sum 221) :=
  ⟨by decide, fun r => (by cases r <;> exact ⟨rfl, rfl, rfl, rfl, rfl⟩), rfl, rfl, rfl, rfl⟩

theorem witness_PollIsPoll :
    let s := { idleReady with transport := scripted [0x42] frameT1 (.ok 32) }
    s.lc = .ready ∧ s.st = .idle ∧ s.ph = .p0 ∧ FlushEnds s.transport ∧ ReadReturns s.transport :=
  ⟨rfl, rfl, rfl, ⟨1, by decide⟩, .ok 32, by decide, by decide⟩

/-- With a further tick presented during the cycle. -/
theorem witness_SmallStepsYieldPoll :
    let s := given { idleReady with transport := scripted [0x42] frameT1 (.ok 32) } [cmd .tick, cmd .tick]
    Inv s ∧ s.lc = .ready ∧ s.st = .idle ∧ s.inputs = .command ⟨false, .tick⟩ :: [cmd .tick] ∧ OnlyCommands [cmd .tick] ∧
    FlushEnds s.transport ∧ ReadReturns s.transport :=
  ⟨witness_StaleBytes_inv _ (by decide) _, rfl, rfl, rfl, fun _ h => ⟨.tick, by simpa [cmd] using h⟩, ⟨1, by decide⟩,
    .ok 32, by decide, by decide⟩

theorem witness_OnlyReportPublishes :
    (∃ t, exec .tick idleReady = .next t) ∧ ∃ t, exec .report withValue = .next t := ⟨⟨_, rfl⟩, ⟨_, rfl⟩⟩

theorem witness_PublishedValueIsOfValidFrame :
    Inv withValue ∧ answers (step withValue) (fun t => t.out == withValue.out ++ [.publish (some 300)]) = true :=
  ⟨withValue_inv, by decide +kernel⟩

/-- Two instances with different histories and the same answer. -/
theorem witness_CycleDependsOnAnswerAlone :
    answers (exec .poll { idleReady with transport := scripted [0x42, 0x4D] frameT1 (.ok 32), sok := true })
      (fun t => readResults t.out == [] ++ [.bytes frameT1]) = true ∧
    answers (exec .poll { idleReady with transport := scripted [] frameT1 (.ok 40) })
      (fun t => readResults t.out == [] ++ [.bytes frameT1]) = true := by decide +kernel

theorem witness_LayoutIsNeverWritten :
    (∃ t, step State.reset = .next t) ∧ (∃ t, exec .hdrchk (inValidating Config.wfLayoutA .p0 frameT1) = .next t) :=
  ⟨⟨_, rfl⟩, ⟨_, rfl⟩⟩

theorem witness_LifecycleWrittenOnlyByResetAndSetup :
    (∃ t, exec (.setup true) State.reset = .next t ∧ t.lc ≠ State.reset.lc) ∧
    ∃ t, exec .reset idleReady = .next t ∧ t.lc ≠ idleReady.lc := ⟨⟨_, rfl, by decide⟩, ⟨_, rfl, by decide⟩⟩

theorem witness_FrameWrittenOnlyByRead :
    (∃ t, exec .sumchk headerDone = .next t) ∧ (∃ t, exec .report withValue = .next t) ∧
    ∃ t, exec .read (inReading .p1 ⟨frameT1, 0, [], [], [.ok 32]⟩) = .next t := ⟨⟨_, rfl⟩, ⟨_, rfl⟩, ⟨_, rfl⟩⟩

theorem witness_TransportUsedOnlyByFrameReader :
    (∃ t, exec .sumchk headerDone = .next t) ∧ ∃ t, exec (.frameA [] 0 0 [] 0 0) idleReady = .next t :=
  ⟨⟨_, rfl⟩, ⟨_, rfl⟩⟩

theorem witness_StreamConsumedInOrder :
    let s := inReading .p0 ⟨frameT1, 32, [[0x42]], [], []⟩
    s.transport.consumed ≤ s.transport.received.length ∧ ∃ t, step s = .next t := ⟨by decide, _, rfl⟩

theorem witness_FailedInstanceIsSilent :
    Inv (given idleFailed [cmd .tick]) ∧ idleFailed.lc = .failed ∧ NoReset [cmd .tick] ∧
    answers (run 1 (given idleFailed [cmd .tick])) (fun _ => true) = true ∧
    Inv (given idleFailed [cmd .describe]) :=
  ⟨idleFailed_inv _, rfl, by simp [NoReset, cmd], by decide +kernel, idleFailed_inv _⟩

theorem witness_SequencingStaysLegal :
    let s := given idleReady [cmd .tick]
    (∃ t, step s = .next t) ∧ (s.st ≠ .idle → s.lc = .ready) ∧ (s.st = .idle ∨ s.st = .reporting → s.ph = .p0) ∧
    (s.st = .reading → s.ph ≠ .p2) := ⟨⟨_, rfl⟩, by decide⟩

theorem witness_StepKeepsInvariant : Inv withValue ∧ ∃ t, step withValue = .next t := ⟨withValue_inv, _, rfl⟩

theorem witness_FrameBufferStaysCanonical :
    let s := inReading .p1 ⟨frameT1, 0, [], [], [.ok 32]⟩
    Memory.wf s.fb = true ∧ ∃ t, step s = .next t := ⟨rfl, _, rfl⟩

theorem witness_NoReachableStateIsStuck :
    (Inv State.reset ∧ ∀ bs rest, State.reset.inputs ≠ .path bs :: rest) ∧
    (Inv (given idleReady [cmd .tick]) ∧ ∀ bs rest, (given idleReady [cmd .tick]).inputs ≠ .path bs :: rest) :=
  ⟨⟨reset_inv, by simp [State.reset]⟩, ⟨idleReady_inv _, by simp [given, cmd]⟩⟩

theorem witness_OnlyTheseEdges :
    let s := given idleReady [cmd .tick]
    Inv s ∧ (∃ t, step s = .next t) ∧ (∀ ev rest, s.inputs ≠ .command ⟨true, ev⟩ :: rest) ∧
    ∀ bs rest, s.inputs ≠ .path bs :: rest :=
  ⟨idleReady_inv _, ⟨_, rfl⟩, by simp [given, cmd], by simp [given, cmd]⟩

theorem witness_ResetOverridesEverything :
    (given headerDone [.command ⟨true, .tick⟩]).inputs = .command ⟨true, .tick⟩ :: [] := rfl

theorem witness_UnselectedOperationRefused : ¬ selectedIn .read State.reset ∧ ¬ selectedIn .describe headerDone :=
  ⟨fun h => (by cases h.1), fun h => (by cases h.1)⟩

/-- VALIDATE in a state in which FB holds nothing, and ACQUIRE on a transport that never stops. -/
theorem witness_EverySelectedOperationCompletes :
    selectedIn .validate (stateAt .ready .validating .p0) ∧ selectedIn .acquire (inReading .p0 ⟨[], 0, [], [0], []⟩) :=
  ⟨⟨rfl, rfl, rfl⟩, rfl, rfl, rfl⟩

theorem witness_DecodeEncodeRoundTrip :
    (Instr.frameA [0x00, 0x1C, 0x00, 0x05] 0x01 0x2C (List.replicate 22 0x00) 0x00 0xDD).wf = true ∧
    Instr.poll.wf = true := by decide

theorem witness_DecodedFrameKeepsItsBytes : decode ⟨.transport, frameT1⟩ =
    .ok (.frameA [0x00, 0x1C, 0x00, 0x05] 0x01 0x2C (List.replicate 22 0x00) 0x00 0xDD) := by decide

theorem witness_SelectionTable : (0x1FF : Xdw).getLsbD 8 = true := by decide

theorem witness_ThirtySixDispatchWords :
    (0x0C0 : Xdw).getLsbD 8 = false ∧ (0x0C0 : Xdw).extractLsb' 6 2 = 3#2 := by decide

/-- A command, bytes that are no frame, a path that is none, nothing presented. -/
theorem witness_StepRunsDecoded :
    decode (fetch (given idleReady [cmd .tick])) = .ok .tick ∧
    decode (fetch (given idleReady [.arrival [0x42]])) = .error .badLength ∧
    decode (fetch (given idleReady [.path [0x00, 0x00, 0x00]])) = .error .notAPath ∧
    (∀ bs rest, (given idleReady [.path [0x00, 0x00, 0x00]]).inputs ≠ .arrival bs :: rest) ∧
    State.reset.inputs = [] :=
  ⟨by decide, by decide, by decide, by simp [given], rfl⟩

theorem witness_FrameAConstraint :
    ([0x00, 0x1C, 0x00, 0x05] : List Byte).length = 4 ∧ (List.replicate 22 0x00 : List Byte).length = 22 := by decide

theorem witness_InstancesAreIndependent :
    ∃ sys1, stepInstance 0 [idleReady, State.reset] = some sys1 ∧ ∃ sys2, stepInstance 1 sys1 = some sys2 :=
  ⟨_, rfl, _, rfl⟩

/-- A written and an unwritten index; REPORT without MEAS, with FK = None, without DA or DB; the invariant in Validating and
in Reporting, with a value and with a failure. -/
theorem witness_UnwrittenRegistersAreFree :
    (Memory.read [(3, 0x42)] (2 + 1) = some 0x42 ∧ 1 < 2 ∧ Memory.read [(3, 0x42)] (2 + 0) = none) ∧
    (let s := { stateAt .ready .reporting .p0 with outv := true };
      s.lc = .ready ∧ s.st = .reporting ∧ s.ph = .p0 ∧ s.outv = true ∧ s.meas = none) ∧
    ((stateAt .ready .reporting .p0).outv = false ∧ (stateAt .ready .reporting .p0).fk = .none) ∧
    (let s := { stateAt .ready .reporting .p0 with fk := .badHeader, db := some (.bytes [0x43]) };
      s.outv = false ∧ s.fk = .badHeader ∧ s.da = none ∧ s.db = some (.bytes [0x43])) ∧
    (let s := { stateAt .ready .reporting .p0 with fk := .badChecksum, da := some (.sum 222) };
      s.outv = false ∧ s.fk = .badChecksum ∧ s.da = some (.sum 222) ∧ s.db = none) ∧
    (∃ s, Inv s ∧ s.st = .validating) ∧ (Inv withValue ∧ withValue.outv = true) ∧
    (Inv (withFailure .transportError) ∧ (withFailure .transportError).outv = false) :=
  ⟨by decide, by decide, by decide, by decide, by decide,
    ⟨inValidating Config.wfLayoutA .p0 frameT1, inv_of_validating rfl rfl (by decide)
      ⟨inValidating_held, rfl, ⟨rfl, rfl, rfl⟩, fun _ => ⟨⟨rfl, rfl⟩, rfl, rfl, rfl⟩, fun h => (by cases h),
        fun h => (by cases h)⟩, rfl⟩,
    ⟨withValue_inv, rfl⟩,
    ⟨inv_of_reporting rfl rfl rfl (by decide)
      (.transport ⟨rfl, ⟨rfl, rfl⟩, rfl, ⟨rfl, rfl, rfl⟩, rfl, rfl, .inl ⟨rfl, rfl⟩⟩), rfl⟩⟩

/-- A POLL with stale registers, and a READ. -/
theorem witness_NoReadBeforeWrite :
    (let s := { idleReady with fb := [(0, 0x43)], transport := scripted [0x42] frameT1 (.ok 32) };
      s.st = .idle ∧ answers (exec .poll s) (fun t => t.st == .idle) = true) ∧
    (let s := { inReading .p1 ⟨frameT1, 0, [], [], [.ok 32]⟩ with fb := [(0, 0x43)] };
      s.st = .reading ∧ ∃ t, exec .read s = .next t) :=
  ⟨by decide +kernel, rfl, _, rfl⟩

end Sys2Proof.Tests
end

section
/-! Proofs of the state family. This part says once what an operation can do: the effect of each single operation, and
the reduction of every step and every path to such effects. -/

namespace Sys2Proof.Machine

/-- The operations that leave the state as it is: WAIT (R170) and the four IGNORE rows (R161). -/
def idleOps : List Instr := [.wait, .ignoreSetupReady, .ignoreSetupFailed, .ignoreTickUninit, .ignoreTickFailed]

/-- The pseudo-operations (R103). -/
def pseudoOps : List Instr := [.acquire, .validate, .poll]

/-- All that a single operation does, branch by branch, where its dispatch word selects it: what it leads to and under
which condition. `exec_eq_next_iff_opEffect` ties it to `exec`. -/
inductive OpEffect : Instr → State → State → Prop
  | reset (s : State) : OpEffect .reset s
      (({ s.dropData with lc := .uninit, hok := false, sok := false, outv := false, fk := .none } : State).goTo .idle .p0)
  | setupReady {s : State} (sel : selectedIn (.setup true) s) : OpEffect (.setup true) s { s with lc := .ready }
  | setupFailed {s : State} (sel : selectedIn (.setup false) s) : OpEffect (.setup false) s
      { ({ s with fk := .setupFailure } : State).emit (.diag .setupFailure) with lc := .failed }
  | tick {s : State} (sel : selectedIn .tick s) : OpEffect .tick s
      (({ s with hok := false, sok := false, outv := false, fk := .none } : State).goTo .reading .p0)
  | describe {s : State} (sel : selectedIn .describe s) : OpEffect .describe s
      (s.emit (.describe (Config.describeText s.layout.raw s.lc)))
  | idle {i : Instr} {s : State} (hi : i ∈ idleOps) (sel : selectedIn i s) : OpEffect i s s
  | flushEnd {s : State} (sel : selectedIn .flush s) (hb : s.transport.arrive.buffer = []) : OpEffect .flush s
      (((s.setTransport s.transport.arrive).emit (.avail 0)).goTo .reading .p1)
  | flushByte {s : State} (sel : selectedIn .flush s) {b : Byte} {bs : List Byte}
      (hb : s.transport.arrive.buffer = b :: bs) : OpEffect .flush s
      ((((s.setTransport s.transport.arrive).emit (.avail (bs.length + 1))).setTransport
        s.transport.discardOne).emit (.rdbyte b))
  | readUnanswered {s : State} (sel : selectedIn .read s) (ha : s.transport.answers = []) : OpEffect .read s
      (s.setTransport s.transport.arrive)
  | readHold {s : State} (sel : selectedIn .read s) {as : List ReadAnswer} (ha : s.transport.answers = .hold :: as) :
      OpEffect .read s (s.setTransport s.transport.arrive.answerTaken)
  | readFailed {s : State} (sel : selectedIn .read s) {lost : Nat} {as : List ReadAnswer}
      (ha : s.transport.answers = .failed lost :: as) : OpEffect .read s
      (raise .transportError
        ((s.setTransport (s.transport.arrive.answerTaken.consume lost)).emit (.rdexact s.layout.raw.l .failed)))
  | readShort {s : State} (sel : selectedIn .read s) {k : Nat} {as : List ReadAnswer} {bs : List Byte}
      (ha : s.transport.answers = .ok k :: as)
      (hbs : bs = s.transport.arrive.buffer.take (min k s.layout.raw.l)) (hl : bs.length < s.layout.raw.l) :
      OpEffect .read s
      (raise .transportIncomplete
        { (s.setTransport (s.transport.arrive.answerTaken.consume (min k s.layout.raw.l))).emit
            (.rdexact s.layout.raw.l (.bytes bs)) with
          cnt := some (BitVec.ofNat 16 bs.length) })
  | readFrame {s : State} (sel : selectedIn .read s) {k : Nat} {as : List ReadAnswer} {bs : List Byte}
      (ha : s.transport.answers = .ok k :: as)
      (hbs : bs = s.transport.arrive.buffer.take (min k s.layout.raw.l)) (hl : bs.length = s.layout.raw.l) :
      OpEffect .read s
      (({ (s.setTransport (s.transport.arrive.answerTaken.consume (min k s.layout.raw.l))).emit
            (.rdexact s.layout.raw.l (.bytes bs)) with
          cnt := some (BitVec.ofNat 16 bs.length), fb := storeBytes s.fb 0 bs } : State).goTo .validating .p0)
  | hdrchkPass {s : State} (sel : selectedIn .hdrchk s)
      (heq : actualHeader s.layout.raw s.fb = s.layout.raw.hdr) : OpEffect .hdrchk s
      (({ s with hok := true } : State).goTo .validating .p1)
  | hdrchkFail {s : State} (sel : selectedIn .hdrchk s)
      (hne : actualHeader s.layout.raw s.fb ≠ s.layout.raw.hdr) : OpEffect .hdrchk s
      (raise (.badHeader s.layout.raw.hdr (actualHeader s.layout.raw s.fb)) s)
  | sumchkPass {s : State} (sel : selectedIn .sumchk s)
      (heq : computedSum s.layout.raw s.fb = receivedSum s.layout.raw s.fb) : OpEffect .sumchk s
      (({ s with
          acc := some (computedSum s.layout.raw s.fb), rxsum := some (receivedSum s.layout.raw s.fb),
          sok := true } : State).goTo .validating .p2)
  | sumchkFail {s : State} (sel : selectedIn .sumchk s)
      (hne : computedSum s.layout.raw s.fb ≠ receivedSum s.layout.raw s.fb) : OpEffect .sumchk s
      (raise (.badChecksum (computedSum s.layout.raw s.fb) (receivedSum s.layout.raw s.fb))
        { s with
          acc := some (computedSum s.layout.raw s.fb), rxsum := some (receivedSum s.layout.raw s.fb) })
  | extract {s : State} (sel : selectedIn .extract s) : OpEffect .extract s
      (({ s with meas := some (measurement s.layout.raw s.fb), outv := true } : State).goTo .reporting .p0)
  | reportValue {s : State} (sel : selectedIn .report s) (ho : s.outv = true) : OpEffect .report s
      (endCycle (s.emit (.publish (some (s.meas.getD Config.unwrittenMeas)))))
  | reportFailure {s : State} (sel : selectedIn .report s) (ho : s.outv = false) : OpEffect .report s
      (endCycle ((s.emit (.diag (recordOf s.layout.raw s.fk s.da s.db))).emit (.publish none)))
  | frameA (a : List Byte) (h l : Byte) (b : List Byte) (c d : Byte) (s : State) :
      OpEffect (.frameA a h l b c d) s (deliverBytes (frameABytes a h l b c d) s)

/-! ### What READ and SUMCHK come to in each branch -/

/-- Fewer than L bytes are raised as an incomplete read (R115). -/
theorem acceptRead_of_lt {bs : List Byte} {s : State} (h : bs.length < s.layout.raw.l) :
    acceptRead bs s = raise .transportIncomplete { s with cnt := some (BitVec.ofNat 16 bs.length) } := by
  simp [acceptRead, h]

/-- L bytes become the frame (R114). -/
theorem acceptRead_of_length_eq {bs : List Byte} {s : State} (h : bs.length = s.layout.raw.l) :
    acceptRead bs s = ({ s with
      cnt := some (BitVec.ofNat 16 bs.length), fb := storeBytes s.fb 0 bs } : State).goTo .validating .p0 := by
  simp [acceptRead, h]

/-- Equal sums pass (R135). -/
theorem compareSums_self (v : Word16) (s : State) :
    compareSums v v s = ({ s with acc := some v, rxsum := some v, sok := true } : State).goTo .validating .p2 := by
  simp [compareSums, sumsAgree]

/-- Different sums are raised (R135). -/
theorem compareSums_of_ne {c r : Word16} (h : c ≠ r) (s : State) :
    compareSums c r s = raise (.badChecksum c r) { s with acc := some c, rxsum := some r } := by
  simp [compareSums, sumsAgree, h]

/-- READ holds while the script has no answer (R257). -/
theorem execRead_of_unanswered {s : State} (sel : selectedIn .read s) (ha : s.transport.answers = []) :
    execRead s = .next (s.setTransport s.transport.arrive) := by
  simp [execRead, (State.isAt_iff ..).2 sel, whenSelected_true, rdexact, ha]

/-- READ holds while the answer is to hold (R257). -/
theorem execRead_of_hold {s : State} (sel : selectedIn .read s) {as : List ReadAnswer}
    (ha : s.transport.answers = .hold :: as) :
    execRead s = .next (s.setTransport s.transport.arrive.answerTaken) := by
  simp [execRead, (State.isAt_iff ..).2 sel, whenSelected_true, rdexact, ha]

/-- READ raises a transport error (R118). -/
theorem execRead_of_failed {s : State} (sel : selectedIn .read s) {lost : Nat} {as : List ReadAnswer}
    (ha : s.transport.answers = .failed lost :: as) :
    execRead s = .next (raise .transportError
      ((s.setTransport (s.transport.arrive.answerTaken.consume lost)).emit (.rdexact s.layout.raw.l .failed))) := by
  simp [execRead, (State.isAt_iff ..).2 sel, whenSelected_true, rdexact, ha]

/-- READ accepts the bytes it is given (R114). -/
theorem execRead_of_ok {s : State} (sel : selectedIn .read s) {k : Nat} {as : List ReadAnswer} {bs : List Byte}
    (ha : s.transport.answers = .ok k :: as) (hbs : bs = s.transport.arrive.buffer.take (min k s.layout.raw.l)) :
    execRead s = .next (acceptRead bs
      ((s.setTransport (s.transport.arrive.answerTaken.consume (min k s.layout.raw.l))).emit
        (.rdexact s.layout.raw.l (.bytes bs)))) := by
  simp [execRead, (State.isAt_iff ..).2 sel, whenSelected_true, rdexact, ha, hbs]

/-- READ raises an incomplete read when it is given fewer than L bytes (R115). -/
theorem execRead_of_short {s : State} (sel : selectedIn .read s) {k : Nat} {as : List ReadAnswer} {bs : List Byte}
    (ha : s.transport.answers = .ok k :: as) (hbs : bs = s.transport.arrive.buffer.take (min k s.layout.raw.l))
    (hl : bs.length < s.layout.raw.l) :
    execRead s = .next (raise .transportIncomplete
      { (s.setTransport (s.transport.arrive.answerTaken.consume (min k s.layout.raw.l))).emit
          (.rdexact s.layout.raw.l (.bytes bs)) with
        cnt := some (BitVec.ofNat 16 bs.length) }) := by
  rw [execRead_of_ok sel ha hbs, acceptRead_of_lt]
  exact hl

/-- READ stores the frame when it is given L bytes (R114). -/
theorem execRead_of_frame {s : State} (sel : selectedIn .read s) {k : Nat} {as : List ReadAnswer} {bs : List Byte}
    (ha : s.transport.answers = .ok k :: as) (hbs : bs = s.transport.arrive.buffer.take (min k s.layout.raw.l))
    (hl : bs.length = s.layout.raw.l) :
    execRead s = .next (({ (s.setTransport (s.transport.arrive.answerTaken.consume (min k s.layout.raw.l))).emit
          (.rdexact s.layout.raw.l (.bytes bs)) with
        cnt := some (BitVec.ofNat 16 bs.length), fb := storeBytes s.fb 0 bs } : State).goTo .validating .p0) := by
  rw [execRead_of_ok sel ha hbs, acceptRead_of_length_eq]
  · rfl
  · exact hl

/-! ### The effects are those of `exec` -/

/-- READ's effect, by the next answer of the transport's script. -/
theorem opEffect_of_execRead {s t : State} (h : execRead s = .next t) : OpEffect .read s t := by
  have sel : selectedIn .read s := (State.isAt_iff ..).1 (execRead_next h).1
  rcases ha : s.transport.answers with _ | ⟨_ | k | lost, as⟩
  · cases (execRead_of_unanswered sel ha).symm.trans h
    exact .readUnanswered sel ha
  · cases (execRead_of_hold sel ha).symm.trans h
    exact .readHold sel ha
  · obtain ⟨bs, hbs⟩ : ∃ bs, bs = s.transport.arrive.buffer.take (min k s.layout.raw.l) := ⟨_, rfl⟩
    obtain hl | hl : bs.length < s.layout.raw.l ∨ bs.length = s.layout.raw.l := by
      rw [hbs, List.length_take]; omega
    · cases (execRead_of_short sel ha hbs hl).symm.trans h
      exact .readShort sel ha hbs hl
    · cases (execRead_of_frame sel ha hbs hl).symm.trans h
      exact .readFrame sel ha hbs hl
  · cases (execRead_of_failed sel ha).symm.trans h
    exact .readFailed sel ha

/-- An ignored command's effect (R161). -/
theorem opEffect_of_ignoreCommand {i : Instr} {lc : Lifecycle} {s t : State} (hi : i ∈ idleOps)
    (hsel : s.isAt lc .idle .p0 = true → selectedIn i s) (h : ignoreCommand lc s = .next t) : OpEffect i s t := by
  obtain ⟨sel, rfl⟩ := ignoreCommand_next h
  exact .idle hi (hsel sel)

/-- Where a single operation answers a next state, that is one of its effects. -/
theorem opEffect_of_exec {i : Instr} {s t : State} (hi : i ∉ pseudoOps) (h : exec i s = .next t) : OpEffect i s t := by
  cases i with
  | reset => cases h; exact .reset s
  | setup ok =>
    obtain ⟨sel, ⟨rfl, rfl⟩ | ⟨rfl, rfl⟩⟩ := execSetup_next h
    · exact .setupReady ((State.isAt_iff ..).1 sel)
    · exact .setupFailed ((State.isAt_iff ..).1 sel)
  | tick =>
    obtain ⟨sel, rfl⟩ := execTick_next h
    exact .tick ((State.isAt_iff ..).1 sel)
  | describe =>
    obtain ⟨sel, rfl⟩ := execDescribe_next h
    exact .describe ((State.isIdle_iff _).1 sel)
  | wait =>
    obtain ⟨sel, rfl⟩ := execWait_next h
    exact .idle (by decide) ((State.isIdle_iff _).1 sel)
  | ignoreSetupReady => exact opEffect_of_ignoreCommand (by decide) (State.isAt_iff ..).1 h
  | ignoreSetupFailed => exact opEffect_of_ignoreCommand (by decide) (State.isAt_iff ..).1 h
  | ignoreTickUninit => exact opEffect_of_ignoreCommand (by decide) (State.isAt_iff ..).1 h
  | ignoreTickFailed => exact opEffect_of_ignoreCommand (by decide) (State.isAt_iff ..).1 h
  | flush =>
    obtain ⟨sel, ⟨hb, rfl⟩ | ⟨b, bs, hb, rfl⟩⟩ := execFlush_next h
    · exact .flushEnd ((State.isAt_iff ..).1 sel) hb
    · exact .flushByte ((State.isAt_iff ..).1 sel) hb
  | read => exact opEffect_of_execRead h
  | hdrchk =>
    obtain ⟨sel, ⟨heq, rfl⟩ | ⟨hne, rfl⟩⟩ := execHdrchk_next h
    · exact .hdrchkPass ((State.isAt_iff ..).1 sel) heq
    · exact .hdrchkFail ((State.isAt_iff ..).1 sel) hne
  | sumchk =>
    obtain ⟨sel, rfl⟩ := execSumchk_next h
    by_cases heq : computedSum s.layout.raw s.fb = receivedSum s.layout.raw s.fb
    · rw [heq, compareSums_self]
      exact heq ▸ .sumchkPass ((State.isAt_iff ..).1 sel) heq
    · rw [compareSums_of_ne heq]
      exact .sumchkFail ((State.isAt_iff ..).1 sel) heq
  | extract =>
    obtain ⟨sel, rfl⟩ := execExtract_next h
    exact .extract ((State.isAt_iff ..).1 sel)
  | report =>
    obtain ⟨sel, ⟨ho, rfl⟩ | ⟨ho, rfl⟩⟩ := execReport_next h
    · exact .reportValue ((State.isAt_iff ..).1 sel) ho
    · exact .reportFailure ((State.isAt_iff ..).1 sel) ho
  | acquire => simp [pseudoOps] at hi
  | validate => simp [pseudoOps] at hi
  | poll => simp [pseudoOps] at hi
  | frameA a h' l b c d => cases h; exact .frameA a h' l b c d s

/-- The state answered where an idle operation is selected is the same state (R161, R170). -/
theorem exec_idleOps {i : Instr} (hi : i ∈ idleOps) {s : State} (sel : selectedIn i s) : exec i s = .next s := by
  simp only [idleOps, List.mem_cons, List.not_mem_nil, or_false] at hi
  rcases hi with rfl | rfl | rfl | rfl | rfl
  · show whenSelected s.isIdle _ = _
    rw [(State.isIdle_iff s).2 sel, whenSelected_true]
  all_goals
    show whenSelected _ _ = _
    rw [(State.isAt_iff ..).2 sel, whenSelected_true]

/-- Every effect is what `exec` answers. -/
theorem OpEffect.exec_eq {i : Instr} {s t : State} (h : OpEffect i s t) : exec i s = .next t := by
  cases h with
  | reset => rfl
  | setupReady sel => simp [exec, execSetup, (State.isAt_iff ..).2 sel, whenSelected_true]
  | setupFailed sel => simp [exec, execSetup, (State.isAt_iff ..).2 sel, whenSelected_true]
  | tick sel => simp [exec, execTick, (State.isAt_iff ..).2 sel, whenSelected_true]
  | describe sel => simp [exec, execDescribe, (State.isIdle_iff _).2 sel, whenSelected_true]
  | idle hi sel => exact exec_idleOps hi sel
  | flushEnd sel hb => exact execFlush_empty ((State.isAt_iff ..).2 sel) hb
  | flushByte sel hb => exact execFlush_byte ((State.isAt_iff ..).2 sel) hb
  | readUnanswered sel ha => exact execRead_of_unanswered sel ha
  | readHold sel ha => exact execRead_of_hold sel ha
  | readFailed sel ha => exact execRead_of_failed sel ha
  | readShort sel ha hbs hl => exact execRead_of_short sel ha hbs hl
  | readFrame sel ha hbs hl => exact execRead_of_frame sel ha hbs hl
  | hdrchkPass sel heq => simp [exec, execHdrchk, (State.isAt_iff ..).2 sel, whenSelected_true, headerMatches, heq]
  | hdrchkFail sel hne => simp [exec, execHdrchk, (State.isAt_iff ..).2 sel, whenSelected_true, headerMatches, hne]
  | sumchkPass sel heq => simp [exec, execSumchk, (State.isAt_iff ..).2 sel, whenSelected_true, heq, compareSums_self]
  | sumchkFail sel hne => simp [exec, execSumchk, (State.isAt_iff ..).2 sel, whenSelected_true, compareSums_of_ne hne]
  | extract sel => simp [exec, execExtract, (State.isAt_iff ..).2 sel, whenSelected_true]
  | reportValue sel ho => simp [exec, execReport, (State.isAt_iff ..).2 sel, whenSelected_true, ho]
  | reportFailure sel ho => exact execReport_failed ((State.isAt_iff ..).2 sel) ho
  | frameA => rfl

/-- A single operation answers a next state exactly by one of its effects. -/
theorem exec_eq_next_iff_opEffect {i : Instr} (hi : i ∉ pseudoOps) {s t : State} :
    exec i s = .next t ↔ OpEffect i s t := ⟨opEffect_of_exec hi, OpEffect.exec_eq⟩

/-! ### From single operations to paths and steps -/

/-- A pseudo-operation is a sequence of single operations (R103). -/
theorem opSteps_of_pseudoOps {i : Instr} (hi : i ∈ pseudoOps) {s t : State} (h : exec i s = .next t) : OpSteps s t := by
  simp only [pseudoOps, List.mem_cons, List.not_mem_nil, or_false] at hi
  rcases hi with rfl | rfl | rfl
  · exact execAcquire_steps h
  · exact execValidate_steps h
  · exact execPoll_steps h

/-- What the effects of the paths' operations keep, a pseudo-operation keeps. -/
theorem pseudoOps_preserve {P : State → Prop} (hP : ∀ i s t, i ∈ pathOps → OpEffect i s t → P s → P t) {i : Instr}
    (hi : i ∈ pseudoOps) {s t : State} (h : exec i s = .next t) (hs : P s) : P t := by
  have single : ∀ j ∈ pathOps, j ∉ pseudoOps := by decide
  exact (opSteps_of_pseudoOps hi h).preserves
    (fun j hj u v hu hv => hP j u v hj (opEffect_of_exec (single j hj) hv) hu) hs

/-- What every effect keeps, every operation keeps. -/
theorem exec_preserves {P : State → Prop} (hP : ∀ i s t, OpEffect i s t → P s → P t) {i : Instr} {s t : State}
    (h : exec i s = .next t) (hs : P s) : P t := by
  by_cases hi : i ∈ pseudoOps
  · exact pseudoOps_preserve (fun j u v _ => hP j u v) hi h hs
  · exact hP i s t (opEffect_of_exec hi h) hs

/-- A step that answers a next state uses up an input and performs an operation, or lets bytes arrive (R100, R68). -/
theorem step_cases {s t : State} (h : step s = .next t) :
    (∃ i, exec i s.advance = .next t) ∨ ∃ bs, t = deliverBytes bs s.advance := by
  unfold step at h
  split at h
  next i _ => exact .inl ⟨i, h⟩
  next =>
    unfold undecoded at h
    split at h <;> cases h
    exact .inr ⟨_, rfl⟩

/-- What survives an input used up, bytes that arrive and every effect, survives every step. -/
theorem step_preserves {P : State → Prop} (hadv : ∀ s, P s → P s.advance)
    (hdel : ∀ bs s, P s → P (deliverBytes bs s)) (hP : ∀ i s t, OpEffect i s t → P s → P t) {s t : State}
    (h : step s = .next t) (hs : P s) : P t := by
  obtain ⟨i, hi⟩ | ⟨bs, rfl⟩ := step_cases h
  · exact exec_preserves hP hi (hadv s hs)
  · exact hdel bs _ (hadv s hs)

end Sys2Proof.Machine
end

section
/-! The invariant is kept by every step (spec/10_state.md R26, R32 to R34): by what only moves the ports, then operation
by operation. -/

namespace Sys2Proof.Machine

/-! ### What only moves the ports keeps every part of the invariant -/

/-- The same registers with other things at the ports. -/
def State.withPorts (s : State) (tr : Transport) (is : List Input) (o : List Transaction) : State :=
  { s with transport := tr, inputs := is, out := o }

section
variable {s : State} {F : List Byte} {hok sok outv : Bool} (tr : Transport) (is : List Input) (o : List Transaction)

theorem NoData.withPorts (h : NoData s) : NoData (s.withPorts tr is o) := { h with }
theorem HoldsFrame.withPorts (h : HoldsFrame s F) : HoldsFrame (s.withPorts tr is o) F := { h with }
theorem NoFailure.withPorts (h : NoFailure s) : NoFailure (s.withPorts tr is o) := { h with }
theorem HoldsSums.withPorts (h : HoldsSums s F) : HoldsSums (s.withPorts tr is o) F := { h with }
theorem NoSums.withPorts (h : NoSums s) : NoSums (s.withPorts tr is o) := { h with }
theorem Flags.withPorts (h : Flags s hok sok outv) : Flags (s.withPorts tr is o) hok sok outv := { h with }

theorem IdleData.withPorts (h : IdleData s) : IdleData (s.withPorts tr is o) where
  noData := h.noData.withPorts ..
  uninit hl := (h.uninit hl).imp_right (·.withPorts ..)
  failed hl := (h.failed hl).imp_right (·.withPorts ..)

theorem ReadingData.withPorts (h : ReadingData s) : ReadingData (s.withPorts tr is o) :=
  ⟨h.noData.withPorts .., h.flags.withPorts .., h.fk⟩

theorem ValidatingData.withPorts (h : ValidatingData s F) : ValidatingData (s.withPorts tr is o) F where
  frame := h.frame.withPorts ..
  meas := h.meas
  noFailure := h.noFailure.withPorts ..
  p0 hp := (h.p0 hp).imp (·.withPorts ..) (·.withPorts ..)
  p1 hp := (h.p1 hp).imp_right (.imp (·.withPorts ..) (·.withPorts ..))
  p2 hp := (h.p2 hp).imp_right (.imp_right (.imp (·.withPorts ..) (·.withPorts ..)))

theorem ReportingData.withPorts (h : ReportingData s) : ReportingData (s.withPorts tr is o) := by
  cases h with
  | value F h =>
    exact .value F { h with
      frame := h.frame.withPorts .., sums := h.sums.withPorts .., flags := h.flags.withPorts ..,
      noFailure := h.noFailure.withPorts .. }
  | badHeader F h =>
    exact .badHeader F { h with
      frame := h.frame.withPorts .., noSums := h.noSums.withPorts .., flags := h.flags.withPorts .. }
  | badChecksum F h =>
    exact .badChecksum F { h with
      frame := h.frame.withPorts .., sums := h.sums.withPorts .., flags := h.flags.withPorts .. }
  | transport h => exact .transport { h with noSums := h.noSums.withPorts .., flags := h.flags.withPorts .. }

/-- The invariant speaks of the registers and the stream's position only. -/
theorem Inv.withPorts (h : Inv s) (pos : tr.consumed ≤ tr.received.length) : Inv (s.withPorts tr is o) where
  busyReady := h.busyReady
  phaseZero := h.phaseZero
  phaseReading := h.phaseReading
  position := pos
  idle hs := (h.idle hs).withPorts ..
  reading hs := (h.reading hs).withPorts ..
  validating hs := (h.validating hs).imp fun _ d => d.withPorts ..
  reporting hs := (h.reporting hs).withPorts ..

end

theorem inv_advance {s : State} (h : Inv s) : Inv s.advance := h.withPorts s.transport s.inputs.tail s.out h.position

theorem inv_emit {s : State} (h : Inv s) (t : Transaction) : Inv (s.emit t) :=
  h.withPorts s.transport s.inputs (s.out ++ [t]) h.position

theorem inv_setTransport {s : State} (h : Inv s) {tr : Transport} (pos : tr.consumed ≤ tr.received.length) :
    Inv (s.setTransport tr) := h.withPorts tr s.inputs s.out pos

theorem inv_deliverBytes {s : State} (h : Inv s) (bs : List Byte) : Inv (deliverBytes bs s) :=
  inv_setTransport h (by have := h.position; simp; omega)

/-! ### The data of the state each operation leads to -/

/-- RESET leaves nothing but the reset values, whatever it found (R37, R181). -/
theorem idleData_reset (s : State) : IdleData
    (({ s.dropData with lc := .uninit, hok := false, sok := false, outv := false, fk := .none } : State).goTo .idle .p0) where
  noData := ⟨rfl, rfl, rfl, rfl, rfl, rfl, rfl⟩
  uninit _ := ⟨rfl, rfl, rfl, rfl⟩
  failed h := by simp at h

/-- TICK clears the status and finds no data (R162). -/
theorem readingData_tick {s : State} (d : IdleData s) : ReadingData
    (({ s with hok := false, sok := false, outv := false, fk := .none } : State).goTo .reading .p0) :=
  ⟨{ d.noData with }, ⟨rfl, rfl, rfl⟩, rfl⟩

/-- After REPORT nothing is held (R168, R34). -/
theorem idleData_endCycle {s : State} (lc : s.lc = .ready) : IdleData (endCycle s) where
  noData := ⟨rfl, rfl, rfl, rfl, rfl, rfl, rfl⟩
  uninit h := by simp [lc] at h
  failed h := by simp [lc] at h

/-- READ with L bytes: they are the frame, and nothing has been checked yet (R114). -/
theorem validatingData_read {s : State} (d : ReadingData s) {bs : List Byte} (hl : bs.length = s.layout.raw.l) :
    ValidatingData (({ s with
      cnt := some (BitVec.ofNat 16 bs.length), fb := storeBytes s.fb 0 bs } : State).goTo .validating .p0) bs where
  frame := ⟨hl, by simp [d.noData.fb], by simp [hl]⟩
  meas := d.noData.meas
  noFailure := ⟨d.fk, d.noData.da, d.noData.db⟩
  p0 _ := ⟨⟨d.noData.acc, d.noData.rxsum⟩, { d.flags with }⟩
  p1 h := by simp at h
  p2 h := by simp at h

/-- READ with an error holds no byte and no count (R118). -/
theorem transportFailureData_failed {s : State} (d : ReadingData s) :
    TransportFailureData (raise .transportError s) :=
  ⟨d.noData.fb, ⟨d.noData.acc, d.noData.rxsum⟩, d.noData.meas, { d.flags with }, d.noData.da, d.noData.db,
    .inl ⟨rfl, d.noData.cnt⟩⟩

/-- READ with fewer than L bytes holds their count only (R115). -/
theorem transportFailureData_short {s : State} (d : ReadingData s) {k : Nat} (hk : k < s.layout.raw.l) :
    TransportFailureData (raise .transportIncomplete { s with cnt := some (BitVec.ofNat 16 k) }) :=
  ⟨d.noData.fb, ⟨d.noData.acc, d.noData.rxsum⟩, d.noData.meas, { d.flags with }, d.noData.da, d.noData.db,
    .inr ⟨rfl, k, hk, rfl⟩⟩

section
variable {s : State} {F : List Byte} (d : ValidatingData s F)
include d

/-- HDRCHK passed: the frame begins with the header (R131). -/
theorem validatingData_hdrchk (hp : s.ph = .p0) (heq : actualHeader s.layout.raw s.fb = s.layout.raw.hdr) :
    ValidatingData (({ s with hok := true } : State).goTo .validating .p1) F := by
  obtain ⟨noSums, flags⟩ := d.p0 hp
  rw [actualHeader_frame d.frame.frameIn] at heq
  exact ⟨{ d.frame with }, d.meas, { d.noFailure with }, by simp,
    fun _ => ⟨heq, { noSums with }, { flags with hok := rfl }⟩, by simp⟩

/-- HDRCHK raised: the frame does not begin with the header (R131, R132). -/
theorem badHeaderData_hdrchk (hp : s.ph = .p0) (hne : actualHeader s.layout.raw s.fb ≠ s.layout.raw.hdr) :
    BadHeaderData (raise (.badHeader s.layout.raw.hdr (actualHeader s.layout.raw s.fb)) s) F := by
  obtain ⟨noSums, flags⟩ := d.p0 hp
  rw [actualHeader_frame d.frame.frameIn] at hne ⊢
  exact ⟨{ d.frame with }, { noSums with }, d.meas, { flags with }, rfl, rfl, rfl, by simp [validateFrame, hne]⟩

/-- SUMCHK passed: the two sums of the frame are equal (R135). -/
theorem validatingData_sumchk (hp : s.ph = .p1)
    (heq : computedSum s.layout.raw s.fb = receivedSum s.layout.raw s.fb) :
    ValidatingData (({ s with
      acc := some (computedSum s.layout.raw s.fb), rxsum := some (receivedSum s.layout.raw s.fb),
      sok := true } : State).goTo .validating .p2) F := by
  obtain ⟨header, -, flags⟩ := d.p1 hp
  rw [computedSum_frame d.frame.frameIn, receivedSum_frame d.frame.frameIn] at heq ⊢
  exact ⟨{ d.frame with }, d.meas, { d.noFailure with }, by simp, by simp,
    fun _ => ⟨header, heq, ⟨rfl, rfl⟩, { flags with sok := rfl }⟩⟩

/-- SUMCHK raised: the header is right and the two sums differ (R135). -/
theorem badChecksumData_sumchk (hp : s.ph = .p1)
    (hne : computedSum s.layout.raw s.fb ≠ receivedSum s.layout.raw s.fb) :
    BadChecksumData (raise (.badChecksum (computedSum s.layout.raw s.fb) (receivedSum s.layout.raw s.fb)) { s with
      acc := some (computedSum s.layout.raw s.fb), rxsum := some (receivedSum s.layout.raw s.fb) }) F := by
  obtain ⟨header, -, flags⟩ := d.p1 hp
  rw [computedSum_frame d.frame.frameIn, receivedSum_frame d.frame.frameIn] at hne ⊢
  exact ⟨{ d.frame with }, ⟨rfl, rfl⟩, d.meas, { flags with }, rfl, rfl, rfl, by simp [validateFrame, header, hne]⟩

/-- EXTRACT: the frame is valid and MEAS is its measurement (R139). -/
theorem valueData_extract (hp : s.ph = .p2) :
    ValueData (({ s with meas := some (measurement s.layout.raw s.fb), outv := true } : State).goTo .reporting .p0) F := by
  obtain ⟨header, sumsEq, sums, flags⟩ := d.p2 hp
  rw [measurement_frame d.frame.frameIn]
  exact ⟨{ d.frame with }, { sums with }, { flags with outv := rfl }, { d.noFailure with }, _, rfl,
    by simp [validateFrame, header, sumsEq]⟩

end

/-! ### Every operation keeps the invariant -/

/-- The stream's position after READ has taken up to `n` bytes. -/
theorem position_of_read {s : State} (h : Inv s) (n : Nat) :
    (s.transport.arrive.answerTaken.consume n).consumed ≤ (s.transport.arrive.answerTaken.consume n).received.length :=
  Transport.consume_position (Transport.arrive_position h.position) n

/-- An answer of RDEXACT, before READ records it, keeps the invariant. -/
theorem inv_answered {s : State} (h : Inv s) (n : Nat) (r : ReadResult) :
    Inv ((s.setTransport (s.transport.arrive.answerTaken.consume n)).emit (.rdexact s.layout.raw.l r)) :=
  inv_emit (inv_setTransport h (position_of_read h n)) _

/-- Every single operation keeps the invariant. -/
theorem OpEffect.inv {i : Instr} {s t : State} (e : OpEffect i s t) (h : Inv s) : Inv t := by
  have arrived := Transport.arrive_position h.position
  cases e with
  | reset => exact inv_of_idle rfl rfl h.position (idleData_reset s)
  | setupReady sel =>
    obtain ⟨-, st, ph⟩ := sel
    exact inv_of_idle st ph h.position ⟨{ (h.idle st).noData with }, by simp, by simp⟩
  | setupFailed sel =>
    obtain ⟨lc, st, ph⟩ := sel
    exact inv_of_idle st ph h.position
      ⟨{ (h.idle st).noData with }, by simp, fun _ => ⟨rfl, { ((h.idle st).uninit lc).2 with }⟩⟩
  | tick sel =>
    obtain ⟨lc, st, -⟩ := sel
    exact inv_of_reading lc rfl (by simp) h.position (readingData_tick (h.idle st))
  | describe => exact inv_emit h _
  | idle => exact h
  | flushEnd sel hb =>
    obtain ⟨lc, st, -⟩ := sel
    have d := (inv_emit (inv_setTransport h arrived) (.avail 0)).reading st
    exact inv_of_reading lc rfl (by simp) arrived ⟨{ d.noData with }, { d.flags with }, d.fk⟩
  | flushByte => exact inv_emit (inv_setTransport (inv_emit (inv_setTransport h arrived) _)
      (Transport.consume_position arrived 1)) _
  | readUnanswered => exact inv_setTransport h arrived
  | readHold => exact inv_setTransport h arrived
  | readFailed sel ha =>
    obtain ⟨lc, st, -⟩ := sel
    exact inv_of_reporting lc rfl rfl (position_of_read h _)
      (.transport (transportFailureData_failed ((inv_answered h _ _).reading st)))
  | readShort sel ha hbs hl =>
    obtain ⟨lc, st, -⟩ := sel
    exact inv_of_reporting lc rfl rfl (position_of_read h _)
      (.transport (transportFailureData_short ((inv_answered h _ _).reading st) hl))
  | readFrame sel ha hbs hl =>
    obtain ⟨lc, st, -⟩ := sel
    exact inv_of_validating lc rfl (position_of_read h _) (validatingData_read ((inv_answered h _ _).reading st) hl)
  | hdrchkPass sel heq =>
    obtain ⟨lc, st, ph⟩ := sel
    obtain ⟨F, d⟩ := h.validating st
    exact inv_of_validating lc rfl h.position (validatingData_hdrchk d ph heq)
  | hdrchkFail sel hne =>
    obtain ⟨lc, st, ph⟩ := sel
    obtain ⟨F, d⟩ := h.validating st
    exact inv_of_reporting lc rfl rfl h.position (.badHeader F (badHeaderData_hdrchk d ph hne))
  | sumchkPass sel heq =>
    obtain ⟨lc, st, ph⟩ := sel
    obtain ⟨F, d⟩ := h.validating st
    exact inv_of_validating lc rfl h.position (validatingData_sumchk d ph heq)
  | sumchkFail sel hne =>
    obtain ⟨lc, st, ph⟩ := sel
    obtain ⟨F, d⟩ := h.validating st
    exact inv_of_reporting lc rfl rfl h.position (.badChecksum F (badChecksumData_sumchk d ph hne))
  | extract sel =>
    obtain ⟨lc, st, ph⟩ := sel
    obtain ⟨F, d⟩ := h.validating st
    exact inv_of_reporting lc rfl rfl h.position (.value F (valueData_extract d ph))
  | reportValue sel ho =>
    obtain ⟨lc, -⟩ := sel
    exact inv_of_idle rfl rfl h.position (idleData_endCycle lc)
  | reportFailure sel ho =>
    obtain ⟨lc, -⟩ := sel
    exact inv_of_idle rfl rfl h.position (idleData_endCycle lc)
  | frameA => exact inv_deliverBytes h _

/-- Settles O43: an input used up, bytes that arrive and the effect of each single operation keep the invariant. -/
theorem stepKeepsInvariant : Obligations.StepKeepsInvariant := fun _ _ h hstep =>
  step_preserves (fun _ h => inv_advance h) (fun bs _ h => inv_deliverBytes h bs) (fun _ _ _ e h => e.inv h) hstep h

end Sys2Proof.Machine
end

section
/-! Which registers an operation may write: the layout (spec/10_state.md R22), LC (R23), the sequencing registers (R26) and
the frame buffer (R27). -/

namespace Sys2Proof.Machine

/-! ### Paths of fewer operations -/

/-- What both parts of a path keep, the path keeps. -/
theorem thenIf_preserves {P : State → Prop} {r : Result} {sel : State → Bool} {f : State → Result} {t : State}
    (hr : ∀ u, r = .next u → P u) (hf : ∀ u v, f u = .next v → P u → P v) (h : thenIf r sel f = .next t) : P t := by
  obtain ⟨u, hu, ⟨-, rfl⟩ | ⟨-, hv⟩⟩ := thenIf_next.1 h
  · exact hr _ hu
  · exact hf u t hv (hr u hu)

/-- What an operation keeps, its repetition keeps, in the form FLUSH and READ are repeated in. -/
theorem repeated_preserves {P : State → Prop} {g : Nat → State → Result} {f : State → Result} {sel : State → Bool}
    (hzero : ∀ s, g 0 s = .next s) (hsucc : ∀ n s, g (n + 1) s = thenIf (f s) sel (g n))
    (hf : ∀ u v, f u = .next v → P u → P v) (n : Nat) (s t : State) (h : g n s = .next t) (hs : P s) : P t := by
  induction n generalizing s t with
  | zero => rw [hzero] at h; cases h; exact hs
  | succ n ih => exact thenIf_preserves (fun u hu => hf s u hu hs) ih ((hsucc n s).symm.trans h)

/-- What the effects of HDRCHK, SUMCHK and EXTRACT keep, VALIDATE keeps (R140). -/
theorem validate_preserves {P : State → Prop}
    (hP : ∀ i s t, i ∈ [Instr.hdrchk, .sumchk, .extract] → OpEffect i s t → P s → P t) {s t : State}
    (h : exec .validate s = .next t) (hs : P s) : P t := by
  have hdrchk : ∀ u v, execHdrchk u = .next v → P u → P v := fun u v he =>
    hP .hdrchk u v (by simp) (opEffect_of_exec (by decide) he)
  have sumchk : ∀ u v, execSumchk u = .next v → P u → P v := fun u v he =>
    hP .sumchk u v (by simp) (opEffect_of_exec (by decide) he)
  have extract : ∀ u v, execExtract u = .next v → P u → P v := fun u v he =>
    hP .extract u v (by simp) (opEffect_of_exec (by decide) he)
  exact thenIf_preserves (fun u hu => thenIf_preserves (fun v hv => hdrchk s v hv hs) sumchk hu) extract
    (whenSelected_next.1 h).2

/-- What the effects of FLUSH and READ keep, ACQUIRE keeps (R117). -/
theorem acquire_preserves {P : State → Prop}
    (hP : ∀ i s t, i ∈ [Instr.flush, .read] → OpEffect i s t → P s → P t) {s t : State}
    (h : exec .acquire s = .next t) (hs : P s) : P t := by
  have flush : ∀ u v, execFlush u = .next v → P u → P v := fun u v he =>
    hP .flush u v (by simp) (opEffect_of_exec (by decide) he)
  have read : ∀ u v, execRead u = .next v → P u → P v := fun u v he =>
    hP .read u v (by simp) (opEffect_of_exec (by decide) he)
  exact thenIf_preserves
    (fun u hu => repeated_preserves (g := flushAll) (fun _ => rfl) (fun _ _ => rfl) flush _ s u hu hs)
    (fun u v => repeated_preserves (g := readAll) (fun _ => rfl) (fun _ _ => rfl) read _ u v)
    (whenSelected_next.1 h).2

/-! ### What a single operation leaves unchanged -/

/-- No operation writes a layout register (R22). -/
theorem OpEffect.layout_eq {i : Instr} {s t : State} (e : OpEffect i s t) : t.layout = s.layout := by
  cases e <;> simp

/-- Only RESET and SETUP write LC (R23). -/
theorem OpEffect.lc_eq {i : Instr} {s t : State} (e : OpEffect i s t) (hreset : i ≠ .reset)
    (hsetup : ∀ ok, i ≠ .setup ok) : t.lc = s.lc := by
  cases e with
  | reset => exact absurd rfl hreset
  | setupReady => exact absurd rfl (hsetup true)
  | setupFailed => exact absurd rfl (hsetup false)
  | _ => simp

/-- The operations that write FB or end its life: READ, REPORT and RESET (R27, R34). -/
def fbOps : List Instr := [.read, .report, .reset]

/-- Every other operation leaves FB as it is. -/
theorem OpEffect.fb_eq {i : Instr} {s t : State} (e : OpEffect i s t) (hi : i ∉ fbOps) : t.fb = s.fb := by
  cases e with
  | reset | readUnanswered | readHold | readFailed | readShort | readFrame | reportValue | reportFailure =>
    simp [fbOps] at hi
  | _ => simp

/-- REPORT and RESET leave nothing in FB (R34). -/
theorem OpEffect.fb_eq_nil {i : Instr} {s t : State} (e : OpEffect i s t) (hi : i = .report ∨ i = .reset) :
    t.fb = [] := by
  obtain rfl | rfl := hi
  · cases e with
    | reportValue | reportFailure => rfl
    | idle hi => simp [idleOps] at hi
  · cases e with
    | reset => rfl
    | idle hi => simp [idleOps] at hi

/-- READ stores no byte at an index of L or more (R50). -/
theorem OpEffect.fb_read_of_le {i : Instr} {s t : State} (e : OpEffect i s t) (hi : i ∈ [Instr.flush, .read]) {a : Nat}
    (ha : s.layout.raw.l ≤ a) : Memory.read t.fb a = Memory.read s.fb a := by
  cases e with
  | readFrame sel hans hbs hl => simp [read_storeBytes, hl]; omega
  | flushEnd | flushByte | readUnanswered | readHold | readFailed | readShort | idle => simp
  | _ => simp at hi

/-- What an operation does to FB: it stays, it dies, or READ stores bytes in it (R27). -/
theorem OpEffect.fb_cases {i : Instr} {s t : State} (e : OpEffect i s t) :
    t.fb = s.fb ∨ t.fb = [] ∨ ∃ bs, t.fb = storeBytes s.fb 0 bs := by
  cases e with
  | reset | reportValue | reportFailure => exact .inr (.inl rfl)
  | readFrame => exact .inr (.inr ⟨_, rfl⟩)
  | _ => exact .inl (by simp)

/-- The rules of the sequencing registers (R26). -/
structure Sequenced (s : State) : Prop where
  busyReady : s.st ≠ .idle → s.lc = .ready
  phaseZero : s.st = .idle ∨ s.st = .reporting → s.ph = .p0
  phaseReading : s.st = .reading → s.ph ≠ .p2

/-- The rules speak of LC, ST and PH only. -/
theorem Sequenced.congr {s t : State} (h : Sequenced s) (lc : t.lc = s.lc) (st : t.st = s.st) (ph : t.ph = s.ph) :
    Sequenced t where
  busyReady := by rw [lc, st]; exact h.busyReady
  phaseZero := by rw [st, ph]; exact h.phaseZero
  phaseReading := by rw [st, ph]; exact h.phaseReading

/-- Every operation keeps the rules of the sequencing registers, whatever the data path holds. -/
theorem OpEffect.sequenced {i : Instr} {s t : State} (e : OpEffect i s t) (h : Sequenced s) : Sequenced t := by
  cases e with
  | reset | reportValue | reportFailure => exact ⟨by simp, by simp, by simp⟩
  | setupReady sel | setupFailed sel =>
    obtain ⟨-, st, ph⟩ := sel
    exact ⟨by simp [st], by simp [ph], by simp [st]⟩
  | tick sel | flushEnd sel hb | readFailed sel ha | readShort sel ha hbs hl | readFrame sel ha hbs hl
  | hdrchkPass sel heq | hdrchkFail sel hne | sumchkPass sel heq | sumchkFail sel hne | extract sel =>
    obtain ⟨lc, -⟩ := sel
    exact ⟨by simp [lc], by simp, by simp⟩
  | describe | idle | flushByte | readUnanswered | readHold | frameA => exact h.congr (by simp) (by simp) (by simp)

/-! ### The obligations -/

/-- Settles O36: no effect writes the layout, and the validator's effects leave FB alone. -/
theorem layoutIsNeverWritten : Obligations.LayoutIsNeverWritten := by
  refine ⟨fun s t h => ?_, fun i s t h hi => ?_⟩
  · exact step_preserves (P := fun u => u.layout = s.layout) (fun _ h => h) (fun _ _ h => h)
      (fun _ _ _ e h => e.layout_eq.trans h) h rfl
  · have frozen : ∀ j ∈ [Instr.hdrchk, .sumchk, .extract], j ∉ fbOps := by decide
    have keep : ∀ j u v, j ∈ [Instr.hdrchk, .sumchk, .extract] → OpEffect j u v →
        u.layout = s.layout ∧ u.fb = s.fb → v.layout = s.layout ∧ v.fb = s.fb := fun j u v hj e hu =>
      ⟨e.layout_eq.trans hu.1, (e.fb_eq (frozen j hj)).trans hu.2⟩
    obtain rfl | rfl | rfl | rfl := hi
    · exact keep .hdrchk s t (by simp) (opEffect_of_exec (by decide) h) ⟨rfl, rfl⟩
    · exact keep .sumchk s t (by simp) (opEffect_of_exec (by decide) h) ⟨rfl, rfl⟩
    · exact keep .extract s t (by simp) (opEffect_of_exec (by decide) h) ⟨rfl, rfl⟩
    · exact validate_preserves (P := fun u => u.layout = s.layout ∧ u.fb = s.fb) keep h ⟨rfl, rfl⟩

/-- Settles O37: every other single operation keeps LC, and no path contains RESET or SETUP. -/
theorem lifecycleWrittenOnlyByResetAndSetup : Obligations.LifecycleWrittenOnlyByResetAndSetup := by
  intro i s t h hne
  by_contra hc
  obtain ⟨hreset, hsetup⟩ := not_or.1 hc
  refine hne ?_
  by_cases hi : i ∈ pseudoOps
  · have keep : ∀ j u v, j ∈ pathOps → OpEffect j u v → u.lc = s.lc → v.lc = s.lc := fun j u v hj e hu =>
      (e.lc_eq (by rintro rfl; simp [pathOps] at hj) (by rintro ok rfl; simp [pathOps] at hj)).trans hu
    exact pseudoOps_preserve keep hi h rfl
  · exact (opEffect_of_exec hi h).lc_eq hreset fun ok hok => hsetup ⟨ok, hok⟩

/-- Settles O38: FB after each operation, VALIDATE and ACQUIRE by their parts. -/
theorem frameWrittenOnlyByRead : Obligations.FrameWrittenOnlyByRead := by
  refine ⟨fun i s t h hread hacquire hpoll hreport hreset a => ?_, fun i s t h hi a => ?_, fun i s t h hi a ha => ?_⟩
  · by_cases hv : i = .validate
    · subst hv
      rw [(layoutIsNeverWritten.2 .validate s t h (by simp)).2]
    · have e := opEffect_of_exec (by simp [pseudoOps, hacquire, hpoll, hv]) h
      rw [e.fb_eq (by simp [fbOps, hread, hreport, hreset])]
  · have e := opEffect_of_exec (by obtain rfl | rfl := hi <;> decide) h
    rw [e.fb_eq_nil hi, Memory.read]
  · obtain rfl | rfl := hi
    · exact (opEffect_of_exec (by decide) h).fb_read_of_le (by simp) ha
    · have kept := acquire_preserves (P := fun u => u.layout = s.layout ∧ Memory.read u.fb a = Memory.read s.fb a)
        (fun j u v hj e hu => ⟨e.layout_eq.trans hu.1, (e.fb_read_of_le hj (hu.1 ▸ ha)).trans hu.2⟩) h ⟨rfl, rfl⟩
      exact kept.2

/-- Settles O42: every effect keeps the three rules, and neither inputs nor arrivals touch these registers. -/
theorem sequencingStaysLegal : Obligations.SequencingStaysLegal := by
  intro s t h busyReady phaseZero phaseReading
  have kept : Sequenced t := step_preserves (fun _ h => h.congr rfl rfl rfl) (fun _ _ h => h.congr rfl rfl rfl)
    (fun _ _ _ e h => e.sequenced h) h ⟨busyReady, phaseZero, phaseReading⟩
  exact ⟨kept.busyReady, kept.phaseZero, kept.phaseReading⟩

/-- Settles O44: FB stays, becomes empty, or has bytes stored in it, and storing keeps the canonical form. -/
theorem frameBufferStaysCanonical : Obligations.FrameBufferStaysCanonical := by
  refine fun s t hwf h => step_preserves (P := fun u => Memory.wf u.fb = true) (fun _ h => h) (fun _ _ h => h)
    (fun i u v e hu => ?_) h hwf
  obtain heq | heq | ⟨bs, heq⟩ := e.fb_cases
  · rw [heq]; exact hu
  · rw [heq]; rfl
  · rw [heq]; exact storeBytes_wf hu 0 bs

/-- Settles O1: the fields of `State.reset`. -/
theorem resetStateHoldsResetValues : Obligations.ResetStateHoldsResetValues :=
  ⟨rfl, rfl, rfl, rfl, rfl, rfl, rfl, ⟨rfl, rfl, rfl, rfl, rfl, rfl, rfl⟩⟩

/-- Settles O2: the reset state is an idle state with nothing held. -/
theorem resetMeetsInvariant : Obligations.ResetMeetsInvariant :=
  ⟨inv_of_idle rfl rfl le_rfl ⟨⟨rfl, rfl, rfl, rfl, rfl, rfl, rfl⟩, fun _ => ⟨rfl, rfl, rfl, rfl⟩, fun h => by cases h⟩,
    reset_fb_wf⟩

end Sys2Proof.Machine
end

section
/-! Registers that hold no value (spec/10_state.md R34, R37): what is free when an operation reads one, and that no state
that meets the invariant is such a state. -/

namespace Sys2Proof.Machine

/-! ### What REPORT makes of DA, DB and MEAS -/

/-- Where no header is held, H free bytes are read (R33, R37). -/
theorem diagBytes_length_of_ne (h : Nat) (r : DiagReg) {v : Option DiagVal} (hv : ∀ bs, v ≠ some (.bytes bs)) :
    (diagBytes h r v).length = h := by
  match v with
  | some (.bytes bs) => exact absurd rfl (hv bs)
  | some (.sum _) | none => simp [diagBytes]

/-- Where no sum is held, a free value of the checksum's width is read (R33, R37). -/
theorem diagSum_lt_of_ne {cw : Nat} (hcw : cw = 1 ∨ cw = 2) (r : DiagReg) {v : Option DiagVal}
    (hv : ∀ x, v ≠ some (.sum x)) : (diagSum cw r v).toNat < 2 ^ (8 * cw) := by
  match v with
  | some (.sum x) => exact absurd rfl (hv x)
  | some (.bytes _) | none =>
    rw [diagSum, truncSum_toNat hcw]
    exact Nat.mod_lt _ (by positivity)

/-- REPORT with a value publishes MEAS, or a free value where it is absent (R168). -/
theorem exec_report_of_outv {s : State} (sel : selectedIn .report s) (ho : s.outv = true) :
    exec .report s = .next (afterReport s [.publish (some (s.meas.getD Config.unwrittenMeas))]) :=
  (OpEffect.reportValue sel ho).exec_eq

/-- REPORT without a value makes the record of FK, DA and DB and publishes invalid (R168). -/
theorem exec_report_of_not_outv {s : State} (sel : selectedIn .report s) (ho : s.outv = false) :
    exec .report s =
      .next (afterReport s [.diag (recordOf s.layout.raw s.fk s.da s.db), .publish none]) := by
  rw [(OpEffect.reportFailure sel ho).exec_eq]
  simp [endCycle, afterReport, State.goTo, State.dropData, State.emit]

/-! ### What the invariant says of the registers read -/

/-- In Validating every index of the frame is written (R130). -/
theorem Inv.fb_isSome {s : State} (h : Inv s) (hs : s.st = .validating) {i : Nat} (hi : i < s.layout.raw.l) :
    (Memory.read s.fb i).isSome = true := by
  obtain ⟨F, d⟩ := h.validating hs
  rw [read_frameByte d.frame.frameIn hi]
  rfl

/-- In Reporting a value is one of a measurement held (R32). -/
theorem ReportingData.meas_isSome {s : State} (h : ReportingData s) (ho : s.outv = true) : s.meas.isSome = true := by
  cases h with
  | value F h =>
    obtain ⟨n, hn, -⟩ := h.meas
    simp [hn]
  | badHeader F h => simp [h.flags.outv] at ho
  | badChecksum F h => simp [h.flags.outv] at ho
  | transport h => simp [h.flags.outv] at ho

/-- In Reporting no value means a failure, and DA and DB hold what its kind takes (R33, R205). -/
theorem ReportingData.failure {s : State} (h : ReportingData s) (ho : s.outv = false) : s.fk ≠ .none ∧
    (s.fk = .badHeader → (∃ bs, s.da = some (.bytes bs)) ∧ ∃ bs, s.db = some (.bytes bs)) ∧
    (s.fk = .badChecksum → (∃ v, s.da = some (.sum v)) ∧ ∃ v, s.db = some (.sum v)) := by
  cases h with
  | value F h => simp [h.flags.outv] at ho
  | badHeader F h => simp [h.fk, h.da, h.db]
  | badChecksum F h => simp [h.fk, h.da, h.db]
  | transport h => obtain ⟨hk, -⟩ | ⟨hk, -⟩ := h.kind <;> simp [hk]

/-- Settles O59: MemRead byte by byte, REPORT by FK and OUTV, and the invariant in Validating and Reporting. -/
theorem unwrittenRegistersAreFree : Obligations.UnwrittenRegistersAreFree := by
  refine ⟨fun m i n => ⟨memRead_length m i n, fun j b hj hb => ?_⟩, fun s lc st ph => ?_, fun s h => ?_⟩
  · rw [memRead_getElem? m i n j hj, fbByte_of_read hb]
  · have sel : selectedIn .report s := ⟨lc, st, ph⟩
    have cw := (layoutFacts s).cw
    refine ⟨fun ho => ⟨_, exec_report_of_outv sel ho⟩, fun ho _ => ⟨_, exec_report_of_not_outv sel ho⟩,
      fun ho fk => ?_, fun ho fk => ?_⟩
    · refine ⟨diagBytes s.layout.raw.h .da s.da, diagBytes s.layout.raw.h .db s.db, ?_, ?_, ?_,
        diagBytes_length_of_ne _ _, diagBytes_length_of_ne _ _⟩
      · rw [exec_report_of_not_outv sel ho, fk]; rfl
      · rintro bs hbs; rw [hbs]; rfl
      · rintro bs hbs; rw [hbs]; rfl
    · refine ⟨diagSum s.layout.raw.cw .da s.da, diagSum s.layout.raw.cw .db s.db, ?_, ?_, ?_,
        diagSum_lt_of_ne cw _, diagSum_lt_of_ne cw _⟩
      · rw [exec_report_of_not_outv sel ho, fk]; rfl
      · rintro v hv; rw [hv]; rfl
      · rintro v hv; rw [hv]; rfl
  · exact ⟨fun hs i hi => h.fb_isSome hs hi, fun hs ho => (h.reporting hs).meas_isSome ho,
      fun hs ho => (h.reporting hs).failure ho⟩

end Sys2Proof.Machine
end

section
/-! No operation reads a data-path register before its own cycle has written it (spec/10_state.md R34): two states that
differ only in what these registers hold go through a cycle side by side. -/

namespace Sys2Proof.Machine

/-! ### States that differ in the data path only -/

/-- The state `s` with the data-path and diagnostic registers of `d`. -/
def State.withDataOf (s d : State) : State :=
  { s with fb := d.fb, cnt := d.cnt, acc := d.acc, rxsum := d.rxsum, meas := d.meas, da := d.da, db := d.db }

/-- A state that agrees with `s` on all that `dropData` keeps is `s` with other data. -/
theorem eq_withDataOf {s u : State} (h : u.dropData = s.dropData) : u = s.withDataOf u := by
  cases u; cases s
  simpa [State.dropData, State.withDataOf] using h

/-- Two states in the same place of a cycle that differ only in data the cycle has not written: outside the data path they
are equal; in Validating both hold the same frame; in Reporting what REPORT will read is equal. `b` is what OUTV held when
the cycle's READ began: 0 after TICK. -/
structure Agree (b : Bool) (s u : State) : Prop where
  control : u.dropData = s.dropData
  outv : s.st = .reading ∨ s.st = .validating → s.outv = b
  frame : s.st = .validating → ∃ F, FrameIn s F ∧ FrameIn u F
  outcome : s.st = .reporting → s.outv = true ∧ u.meas = s.meas ∨
    s.outv = b ∧ recordOf s.layout.raw s.fk u.da u.db = recordOf s.layout.raw s.fk s.da s.db

section
variable {b : Bool} {s u : State}

/-- In Idle nothing of the data path is to agree. -/
theorem agree_of_idle (control : u.dropData = s.dropData) (st : s.st = .idle) : Agree b s u :=
  ⟨control, by simp [st], by simp [st], by simp [st]⟩

/-- In Reading nothing of the data path is to agree. -/
theorem agree_of_reading (control : u.dropData = s.dropData) (st : s.st = .reading) (outv : s.outv = b) : Agree b s u :=
  ⟨control, fun _ => outv, by simp [st], by simp [st]⟩

/-- In Validating the frame agrees. -/
theorem agree_of_validating (control : u.dropData = s.dropData) (st : s.st = .validating) (outv : s.outv = b)
    {F : List Byte} (hs : FrameIn s F) (hu : FrameIn u F) : Agree b s u :=
  ⟨control, fun _ => outv, fun _ => ⟨F, hs, hu⟩, by simp [st]⟩

/-- In Reporting with a failure the record agrees. -/
theorem agree_of_failure (control : u.dropData = s.dropData) (st : s.st = .reporting) (outv : s.outv = b)
    (record : recordOf s.layout.raw s.fk u.da u.db = recordOf s.layout.raw s.fk s.da s.db) : Agree b s u :=
  ⟨control, by simp [st], by simp [st], fun _ => .inr ⟨outv, record⟩⟩

/-- In Reporting with a value MEAS agrees. -/
theorem agree_of_value (control : u.dropData = s.dropData) (st : s.st = .reporting) (outv : s.outv = true)
    (meas : u.meas = s.meas) : Agree b s u :=
  ⟨control, by simp [st], by simp [st], fun _ => .inl ⟨outv, meas⟩⟩

/-- The same transaction made on both sides. -/
theorem Agree.emit (a : Agree b s u) (t : Transaction) : Agree b (s.emit t) (u.emit t) := by
  refine ⟨congrArg (·.emit t) a.control, a.outv, fun st => ?_, a.outcome⟩
  obtain ⟨F, hs, hu⟩ := a.frame st
  exact ⟨F, { hs with }, { hu with }⟩

/-- The same transport on both sides. -/
theorem Agree.setTransport (a : Agree b s u) (tr : Transport) : Agree b (s.setTransport tr) (u.setTransport tr) := by
  refine ⟨congrArg (·.setTransport tr) a.control, a.outv, fun st => ?_, a.outcome⟩
  obtain ⟨F, hs, hu⟩ := a.frame st
  exact ⟨F, { hs with }, { hu with }⟩

theorem Agree.transport_eq (a : Agree b s u) : u.transport = s.transport := by
  simpa using congrArg State.transport a.control

theorem Agree.isAt_eq (a : Agree b s u) (lc : Lifecycle) (st : CycleState) (ph : Phase) :
    u.isAt lc st ph = s.isAt lc st ph := congrArg (·.isAt lc st ph) a.control

end

/-- FB holds a frame that has been stored from index 0 on, whatever it held before. -/
theorem frameIn_of_stored {s : State} {F : List Byte} {m : Memory} (hl : F.length = s.layout.raw.l)
    (hfb : s.fb = storeBytes m 0 F) : FrameIn s F where
  length := hl
  bytes i hi := by rw [hfb, read_storeBytes, if_pos (by omega), Nat.sub_zero]

/-- An operation's effect is one where the operation is selected. -/
theorem OpEffect.selectedIn {i : Instr} {s t : State} (e : OpEffect i s t) : selectedIn i s := by
  cases e with
  | reset | frameA => trivial
  | _ => assumption

/-- Selection does not depend on the data path (R100). -/
theorem selectedIn_withDataOf {i : Instr} {s : State} (d : State) (h : selectedIn i s) :
    selectedIn i (s.withDataOf d) := by
  cases i <;> exact h

/-! ### Every single operation keeps the agreement -/

/-- Each single operation takes states that agree to states that agree; TICK and REPORT belong to a cycle that begins with
OUTV = 0. -/
theorem OpEffect.agree {b : Bool} {i : Instr} {s t u : State} (e : OpEffect i s t) (a : Agree b s u)
    (hb : i = .tick ∨ i = .report → b = false) : ∃ v, OpEffect i u v ∧ Agree b t v := by
  obtain ⟨d, rfl⟩ : ∃ d, u = s.withDataOf d := ⟨u, eq_withDataOf a.control⟩
  have sel' := selectedIn_withDataOf d e.selectedIn
  cases e with
  | reset => exact ⟨_, .reset _, agree_of_idle rfl rfl⟩
  | setupReady sel =>
    obtain ⟨-, st, -⟩ := sel
    exact ⟨_, .setupReady sel', agree_of_idle rfl st⟩
  | setupFailed sel =>
    obtain ⟨-, st, -⟩ := sel
    exact ⟨_, .setupFailed sel', agree_of_idle rfl st⟩
  | tick => exact ⟨_, .tick sel', agree_of_reading rfl rfl (hb (.inl rfl)).symm⟩
  | describe => exact ⟨_, .describe sel', a.emit _⟩
  | idle hi => exact ⟨_, .idle hi sel', a⟩
  | flushEnd sel hbuf =>
    obtain ⟨-, st, -⟩ := sel
    exact ⟨_, .flushEnd sel' hbuf, agree_of_reading rfl rfl (a.outv (.inl st))⟩
  | flushByte sel hbuf =>
    exact ⟨_, .flushByte sel' hbuf, (((a.setTransport _).emit _).setTransport _).emit _⟩
  | readUnanswered sel ha => exact ⟨_, .readUnanswered sel' ha, a.setTransport _⟩
  | readHold sel ha => exact ⟨_, .readHold sel' ha, a.setTransport _⟩
  | readFailed sel ha =>
    obtain ⟨-, st, -⟩ := sel
    exact ⟨_, .readFailed sel' ha, agree_of_failure rfl rfl (a.outv (.inl st)) rfl⟩
  | readShort sel ha hbs hl =>
    obtain ⟨-, st, -⟩ := sel
    exact ⟨_, .readShort sel' ha hbs hl, agree_of_failure rfl rfl (a.outv (.inl st)) rfl⟩
  | readFrame sel ha hbs hl =>
    obtain ⟨-, st, -⟩ := sel
    exact ⟨_, .readFrame sel' ha hbs hl,
      agree_of_validating rfl rfl (a.outv (.inl st)) (frameIn_of_stored hl rfl) (frameIn_of_stored hl rfl)⟩
  | hdrchkPass sel heq =>
    obtain ⟨-, st, -⟩ := sel
    obtain ⟨F, hs, hu⟩ := a.frame st
    have header := (actualHeader_frame hu).trans (actualHeader_frame hs).symm
    exact ⟨_, .hdrchkPass sel' (header.trans heq),
      agree_of_validating rfl rfl (a.outv (.inr st)) { hs with } { hu with }⟩
  | hdrchkFail sel hne =>
    obtain ⟨-, st, -⟩ := sel
    obtain ⟨F, hs, hu⟩ := a.frame st
    have header := (actualHeader_frame hu).trans (actualHeader_frame hs).symm
    refine ⟨_, .hdrchkFail sel' (header.trans_ne hne), agree_of_failure rfl rfl (a.outv (.inr st)) ?_⟩
    rw [header]; rfl
  | sumchkPass sel heq =>
    obtain ⟨-, st, -⟩ := sel
    obtain ⟨F, hs, hu⟩ := a.frame st
    have computed := (computedSum_frame hu).trans (computedSum_frame hs).symm
    have received := (receivedSum_frame hu).trans (receivedSum_frame hs).symm
    exact ⟨_, .sumchkPass sel' (computed.trans (heq.trans received.symm)),
      agree_of_validating rfl rfl (a.outv (.inr st)) { hs with } { hu with }⟩
  | sumchkFail sel hne =>
    obtain ⟨-, st, -⟩ := sel
    obtain ⟨F, hs, hu⟩ := a.frame st
    have computed := (computedSum_frame hu).trans (computedSum_frame hs).symm
    have received := (receivedSum_frame hu).trans (receivedSum_frame hs).symm
    refine ⟨_, .sumchkFail sel' (computed.trans_ne (hne.trans_eq received.symm)),
      agree_of_failure rfl rfl (a.outv (.inr st)) ?_⟩
    rw [computed, received]; rfl
  | extract sel =>
    obtain ⟨-, st, -⟩ := sel
    obtain ⟨F, hs, hu⟩ := a.frame st
    have meas := (measurement_frame hu).trans (measurement_frame hs).symm
    exact ⟨_, .extract sel', agree_of_value rfl rfl rfl (congrArg some meas)⟩
  | reportValue sel ho =>
    obtain ⟨-, st, -⟩ := sel
    obtain ⟨-, meas⟩ | ⟨hob, -⟩ := a.outcome st
    · exact ⟨_, .reportValue sel' ho, agree_of_idle (by rw [meas]; rfl) rfl⟩
    · simp [hob, hb] at ho
  | reportFailure sel ho =>
    obtain ⟨-, st, -⟩ := sel
    obtain ⟨hot, -⟩ | ⟨-, record⟩ := a.outcome st
    · simp [hot] at ho
    · exact ⟨_, .reportFailure sel' ho, agree_of_idle (by rw [← record]; rfl) rfl⟩
  | frameA => exact ⟨_, .frameA .., a.setTransport _⟩

/-! ### So does every path -/

/-- Whatever next state `r` answers, `r'` answers one that agrees with it. -/
def AnswersAgree (b : Bool) (r r' : Result) : Prop := ∀ t, r = .next t → ∃ v, r' = .next v ∧ Agree b t v

section
variable {b : Bool}

/-- Single operations on states that agree. -/
theorem single_agree {i : Instr} (hi : i ∉ pseudoOps) (hb : i = .tick ∨ i = .report → b = false) {s u : State}
    (a : Agree b s u) : AnswersAgree b (exec i s) (exec i u) := by
  intro t h
  obtain ⟨v, e, av⟩ := (opEffect_of_exec hi h).agree a hb
  exact ⟨v, e.exec_eq, av⟩

theorem AnswersAgree.whenSelected {r r' : Result} (h : AnswersAgree b r r') (c : Bool) :
    AnswersAgree b (whenSelected c r) (whenSelected c r') := by
  intro t ht
  obtain ⟨hc, hr⟩ := whenSelected_next.1 ht
  obtain ⟨v, hv, av⟩ := h t hr
  exact ⟨v, whenSelected_next.2 ⟨hc, hv⟩, av⟩

/-- Two paths whose parts agree go on or end together, since the next operation is selected in both or in none. -/
theorem AnswersAgree.thenIf {r r' : Result} (h : AnswersAgree b r r') {f f' : State → Result}
    (hf : ∀ s u, Agree b s u → AnswersAgree b (f s) (f' u)) {lc : Lifecycle} {st : CycleState} {ph : Phase} :
    AnswersAgree b (thenIf r (·.isAt lc st ph) f) (thenIf r' (·.isAt lc st ph) f') := by
  intro t ht
  obtain ⟨s, hs, ⟨sel, rfl⟩ | ⟨sel, hfs⟩⟩ := thenIf_next.1 ht
  · obtain ⟨u, hu, a⟩ := h _ hs
    exact ⟨u, thenIf_next.2 ⟨u, hu, .inl ⟨(a.isAt_eq lc st ph).trans sel, rfl⟩⟩, a⟩
  · obtain ⟨u, hu, a⟩ := h s hs
    obtain ⟨v, hv, av⟩ := hf s u a t hfs
    exact ⟨v, thenIf_next.2 ⟨u, hu, .inr ⟨(a.isAt_eq lc st ph).trans sel, hv⟩⟩, av⟩

theorem flushAll_agree (n : Nat) {s u : State} (a : Agree b s u) : AnswersAgree b (flushAll n s) (flushAll n u) := by
  induction n generalizing s u with
  | zero => intro t h; cases h; exact ⟨u, rfl, a⟩
  | succ n ih => exact (single_agree (i := .flush) (by decide) (by simp) a).thenIf fun _ _ => ih

theorem readAll_agree (n : Nat) {s u : State} (a : Agree b s u) : AnswersAgree b (readAll n s) (readAll n u) := by
  induction n generalizing s u with
  | zero => intro t h; cases h; exact ⟨u, rfl, a⟩
  | succ n ih => exact (single_agree (i := .read) (by decide) (by simp) a).thenIf fun _ _ => ih

/-- ACQUIRE on states that agree; the fuel is the transport's, and so is the same. -/
theorem execAcquire_agree {s u : State} (a : Agree b s u) : AnswersAgree b (execAcquire s) (execAcquire u) := by
  rw [execAcquire, execAcquire, a.isAt_eq, a.transport_eq]
  refine ((flushAll_agree _ a).thenIf (fun s' u' a' => ?_)).whenSelected _
  rw [a'.transport_eq]
  exact readAll_agree _ a'

theorem execValidate_agree {s u : State} (a : Agree b s u) : AnswersAgree b (execValidate s) (execValidate u) := by
  rw [execValidate, execValidate, a.isAt_eq]
  exact (((single_agree (i := .hdrchk) (by decide) (by simp) a).thenIf
    (fun _ _ => single_agree (i := .sumchk) (by decide) (by simp))).thenIf
    (fun _ _ => single_agree (i := .extract) (by decide) (by simp))).whenSelected _

/-- POLL on idle states that agree outside the data path: its TICK clears OUTV. -/
theorem execPoll_agree {s u : State} (a : Agree false s u) : AnswersAgree false (execPoll s) (execPoll u) := by
  rw [execPoll, execPoll, a.isAt_eq]
  exact ((((single_agree (i := .tick) (by decide) (by simp) a).thenIf (fun _ _ => execAcquire_agree)).thenIf
    (fun _ _ => execValidate_agree)).thenIf
    (fun _ _ => single_agree (i := .report) (by decide) (by simp))).whenSelected _

end

/-- Every operation takes states that agree to states that agree. -/
theorem exec_agree {b : Bool} {i : Instr} (hb : i ∈ [Instr.tick, .report, .poll] → b = false) {s u : State}
    (a : Agree b s u) : AnswersAgree b (exec i s) (exec i u) := by
  cases i with
  | acquire => exact execAcquire_agree a
  | validate => exact execValidate_agree a
  | poll => obtain rfl := hb (by simp); exact execPoll_agree a
  | tick | report => exact single_agree (by decide) (by simpa using hb) a
  | _ => exact single_agree (by simp [pseudoOps]) (by simp) a

/-- In Reading neither TICK nor REPORT nor POLL is selected. -/
theorem not_mem_of_exec_reading {i : Instr} {s t : State} (st : s.st = .reading) (h : exec i s = .next t) :
    i ∉ [Instr.tick, .report, .poll] := by
  intro hi
  simp only [List.mem_cons, List.not_mem_nil, or_false] at hi
  obtain rfl | rfl | rfl := hi
  all_goals
    obtain ⟨sel, -⟩ := whenSelected_next.1 h
    simp [State.isAt, st] at sel

/-- Settles O60: in Idle and in Reading a state agrees with the same state without its data. -/
theorem noReadBeforeWrite : Obligations.NoReadBeforeWrite := by
  intro i s t hst h
  obtain ⟨b, hb, a⟩ : ∃ b, (i ∈ [Instr.tick, .report, .poll] → b = false) ∧ Agree b s s.dropData := by
    obtain st | st := hst
    · exact ⟨false, fun _ => rfl, agree_of_idle rfl st⟩
    · exact ⟨s.outv, fun hi => absurd hi (not_mem_of_exec_reading st h), agree_of_reading rfl st rfl⟩
  obtain ⟨u, hu, au⟩ := exec_agree hb a t h
  refine ⟨u, hu, ?_⟩
  rw [eq_withDataOf au.control]
  exact ⟨rfl, rfl, rfl, rfl, rfl, rfl, rfl, rfl, rfl, rfl, rfl⟩

end Sys2Proof.Machine
end

section
/-! Proofs of the memory family: who uses the transport (spec/20_memory.md R50), that the stream is consumed in order, each
byte once (R61), and that a frame's order is the order of arrival (R52). -/

namespace Sys2Proof.Machine

/-! ### Only FLUSH and READ use the transport -/

/-- The single operations that use the transport (R50). -/
def transportUsers : List Instr := [.flush, .read]

/-- Every other operation makes no transport transaction: it makes none at all, or DIAG, PUBLISH or DESCRIBE. -/
theorem OpEffect.transportOps_eq {i : Instr} {s t : State} (e : OpEffect i s t) (hi : i ∉ transportUsers) :
    transportOps t.out = transportOps s.out := by
  cases e with
  | flushEnd | flushByte | readUnanswered | readHold | readFailed | readShort | readFrame =>
    simp [transportUsers] at hi
  | setupFailed | describe | reportValue | reportFailure => simp [transportOps]
  | _ => simp

/-- Every other operation but FRAME_A, which is an arrival, leaves the transport as it is. -/
theorem OpEffect.transport_eq {i : Instr} {s t : State} (e : OpEffect i s t) (hi : i ∉ transportUsers)
    (hframe : ∀ a h l b c d, i ≠ .frameA a h l b c d) : t.transport = s.transport := by
  cases e with
  | flushEnd | flushByte | readUnanswered | readHold | readFailed | readShort | readFrame =>
    simp [transportUsers] at hi
  | frameA a h l b c d => exact absurd rfl (hframe a h l b c d)
  | _ => simp

/-- VALIDATE neither makes a transport transaction nor changes the transport (R130). -/
theorem validate_keeps_transport {s t : State} (h : exec .validate s = .next t) :
    transportOps t.out = transportOps s.out ∧ t.transport = s.transport := by
  have hnot : ∀ i ∈ [Instr.hdrchk, .sumchk, .extract], i ∉ transportUsers := by decide
  exact validate_preserves (P := fun u => transportOps u.out = transportOps s.out ∧ u.transport = s.transport)
    (fun i u v hi e hu => ⟨(e.transportOps_eq (hnot i hi)).trans hu.1,
      (e.transport_eq (hnot i hi) (by rintro a h l b c d rfl; simp at hi)).trans hu.2⟩) h ⟨rfl, rfl⟩

/-- Settles O39: operation by operation, VALIDATE by its parts. -/
theorem transportUsedOnlyByFrameReader : Obligations.TransportUsedOnlyByFrameReader := by
  intro i s t h hflush hread hacquire hpoll
  by_cases hv : i = .validate
  · subst hv
    exact (validate_keeps_transport h).imp_right fun htr _ => htr
  · have e := opEffect_of_exec (by simp [pseudoOps, hacquire, hpoll, hv]) h
    have hi : i ∉ transportUsers := by simp [transportUsers, hflush, hread]
    exact ⟨e.transportOps_eq hi, e.transport_eq hi⟩

/-! ### The stream is consumed in order -/

/-- `tr'` is a later moment of the stream `tr`: what has arrived is only appended to, and the position has only
advanced, inside what has arrived (R61). -/
structure Transport.Later (tr tr' : Transport) : Prop where
  received : ∃ bs, tr'.received = tr.received ++ bs
  consumed_le : tr.consumed ≤ tr'.consumed
  position : tr'.consumed ≤ tr'.received.length

section
variable {tr tr' : Transport}

/-- A stream whose position is inside what has arrived is its own first moment. -/
theorem Transport.Later.refl (h : tr.consumed ≤ tr.received.length) : Later tr tr := ⟨⟨[], by simp⟩, le_rfl, h⟩

theorem Transport.Later.deliver (h : Later tr tr') (bs : List Byte) : Later tr (tr'.deliver bs) := by
  obtain ⟨⟨as, has⟩, hle, hpos⟩ := h
  exact ⟨⟨as ++ bs, by simp [has]⟩, hle, by simp; omega⟩

theorem Transport.Later.arrive (h : Later tr tr') : Later tr tr'.arrive := by
  obtain ⟨⟨as, has⟩, hle, hpos⟩ := h
  exact ⟨⟨as ++ tr'.arrivals.headD tr'.steady, by simp [arrive_received, has]⟩, by simpa using hle, arrive_position hpos⟩

theorem Transport.Later.consume (h : Later tr tr') (n : Nat) : Later tr (tr'.consume n) :=
  ⟨h.received, h.consumed_le.trans (Nat.le_add_right ..), consume_position h.position n⟩

theorem Transport.Later.answerTaken (h : Later tr tr') : Later tr tr'.answerTaken :=
  ⟨h.received, h.consumed_le, h.position⟩

end

/-- Every operation moves the stream by arrivals, which append, and by consuming, which advances the position. -/
theorem OpEffect.later {i : Instr} {s t : State} {tr : Transport} (e : OpEffect i s t)
    (h : Transport.Later tr s.transport) : Transport.Later tr t.transport := by
  cases e with
  | flushEnd | readUnanswered => exact h.arrive
  | flushByte => exact h.arrive.consume 1
  | readHold => exact h.arrive.answerTaken
  | readFailed | readShort | readFrame => simpa using h.arrive.answerTaken.consume _
  | frameA => exact h.deliver _
  | _ => simpa using h

/-- Settles O40: after every step the transport is a later moment of the same stream. -/
theorem streamConsumedInOrder : Obligations.StreamConsumedInOrder := by
  intro s t hpos h
  obtain ⟨received, consumed_le, position⟩ :=
    step_preserves (P := fun u => Transport.Later s.transport u.transport) (fun _ hu => hu)
      (fun bs _ hu => hu.deliver bs) (fun _ _ _ e hu => e.later hu) h (.refl hpos)
  exact ⟨received, consumed_le, position⟩

/-! ### A frame's order is the order of arrival -/

/-- The oldest buffered bytes are those of the stream from the position on (R61). -/
theorem Transport.getElem?_take_buffer (tr : Transport) {n i : Nat} (h : i < n) :
    (tr.buffer.take n)[i]? = tr.received[tr.consumed + i]? := by
  rw [List.getElem?_take_of_lt h, buffer, List.getElem?_drop]

/-- READ that enters Validating holds a frame made of the oldest L bytes buffered after the arrival (R114). -/
theorem frameIn_of_read_validating {s t : State} (h : exec .read s = .next t) (ht : t.st = .validating) :
    FrameIn t (s.transport.arrive.buffer.take t.layout.raw.l) ∧
      t.transport.received = s.transport.arrive.received := by
  cases opEffect_of_exec (by decide) h with
  | idle hi => simp [idleOps] at hi
  | readUnanswered sel | readHold sel => simp [sel.2.1] at ht
  | readFailed | readShort => simp at ht
  | @readFrame _ _ k _ _ _ hbs hl =>
    have hk : min k s.layout.raw.l = s.layout.raw.l := by
      rw [hbs, List.length_take] at hl; omega
    rw [hk] at hbs
    subst hbs
    exact ⟨frameIn_of_stored hl rfl, rfl⟩

/-- Settles O14: the frame is the oldest L buffered bytes, and the buffer is the stream from the position on. -/
theorem frameIsInOrderOfArrival : Obligations.FrameIsInOrderOfArrival := by
  intro s t _ h ht i hi
  obtain ⟨frame, received⟩ := frameIn_of_read_validating h ht
  rw [frame.bytes i hi, Transport.getElem?_take_buffer _ hi, Transport.arrive_consumed, received]

end Sys2Proof.Machine
end

section
/-! Proofs of the encoding family: decoding undoes encoding (spec/30_encoding.md R100, R103, R81), first the numbers and bytes of a
presentation, then the paths, then the frame of layout A. -/

namespace Sys2Proof

/-! ### Paths -/

/-- A number that fits in `k` bytes is read back from them. -/
theorem leNat_leBytes {k n : Nat} (h : n < 256 ^ k) : leNat (leBytes k n) = n := by
  induction k generalizing n with
  | zero => rw [Nat.lt_one_iff.1 h]; rfl
  | succ k ih =>
    have hdiv : n / 256 < 256 ^ k := by rw [pow_succ] at h; omega
    rw [leBytes, leNat, ih hdiv, BitVec.toNat_ofNat]
    omega

/-- Packed words take 9 bits each. -/
theorem packWords_lt (ws : List Xdw) : packWords ws < 512 ^ ws.length := by
  induction ws with
  | nil => simp [packWords]
  | cons w ws ih =>
    have := w.isLt
    rw [packWords, List.length_cons, pow_succ]
    omega

/-- The bytes of a path presentation have room for its words. -/
theorem pow_le_of_pathWords {k n : Nat} (h : pathWords k = some n) : 512 ^ n ≤ 256 ^ k := by
  unfold pathWords at h
  split at h <;> cases h <;> decide

/-- A path is decoded by the operations its words select (R103). -/
theorem decode_presentPath {k : Nat} {ws : List Xdw} {is : List Instr} (hk : pathWords k = some ws.length)
    (hw : decodeWords ws = .ok is) : decode (presentPath k ws) = pathInstr is := by
  have fits : packWords ws < 256 ^ k := (packWords_lt ws).trans_le (pow_le_of_pathWords hk)
  simp only [decode, presentPath, decodePath, leBytes_length, hk, leNat_leBytes fits, packWords_lt, if_true,
    unpackWords_packWords, hw]

/-! ### Frames of layout A -/

/-- The bytes of a FRAME_A, one field after the other. -/
theorem frameABytes_eq (a : List Byte) (h l : Byte) (b : List Byte) (c d : Byte) :
    frameABytes a h l b c d = 0x42 :: 0x4D :: (a ++ h :: l :: (b ++ [c, d])) := by
  simp [frameABytes]

/-- The form of R81 in words. -/
theorem wf_frameA_iff {a b : List Byte} {h l c d : Byte} :
    (Instr.frameA a h l b c d).wf = true ↔ a.length = 4 ∧ b.length = 22 := by
  simp [Instr.wf]

/-- The fields of a well-formed FRAME_A are read back from its bytes (R81). -/
theorem decode_frameABytes {a b : List Byte} (ha : a.length = 4) (hb : b.length = 22) (h l c d : Byte) :
    decode ⟨.transport, frameABytes a h l b c d⟩ = .ok (.frameA a h l b c d) := by
  simp [decode, decodeFrame, frameABytes_eq, ha, hb, List.take_append, List.drop_append]

/-- The last 30 bytes of a frame are the fields of R81, one after the other. -/
theorem fields_append_eq {r : List Byte} (hr : r.length = 30) :
    r.take 4 ++ r.getD 4 0 :: r.getD 5 0 :: ((r.drop 6).take 22 ++ [r.getD 28 0, r.getD 29 0]) = r := by
  have next : ∀ n, n < r.length → r.getD n 0 :: r.drop (n + 1) = r.drop n := fun n hn => by
    rw [List.getD_eq_getElem _ _ hn, List.getElem_cons_drop]
  have last : [r.getD 28 0, r.getD 29 0] = (r.drop 6).drop 22 := by
    rw [List.drop_drop, ← next 28 (by omega), ← next 29 (by omega), List.drop_eq_nil_of_le (by omega)]
  rw [last, List.take_append_drop, next 5 (by omega), next 4 (by omega), List.take_append_drop]

/-- What the transport's bytes decode to, when they decode: a FRAME_A of just these bytes (R81). -/
theorem decode_transport_ok {bs : List Byte} {i : Instr} (h : decode ⟨.transport, bs⟩ = .ok i) :
    bs.length = 32 ∧ bs.take 2 = [0x42, 0x4D] ∧ ∃ a h l b c d,
      a.length = 4 ∧ b.length = 22 ∧ frameABytes a h l b c d = bs ∧ i = .frameA a h l b c d := by
  simp only [decode, decodeFrame] at h
  split at h
  next hlen =>
    split at h
    next hhdr =>
      cases h
      refine ⟨hlen, hhdr, _, _, _, _, _, _, ?_, ?_, ?_, rfl⟩
      · simp [hlen]
      · simp [hlen]
      · have fields := fields_append_eq (r := bs.drop 2) (by simp [hlen])
        rw [frameABytes_eq, fields, ← List.take_append_drop 2 bs, hhdr]
        simp
    next => cases h
  next => cases h

end Sys2Proof

namespace Sys2Proof.Machine

/-- Settles O50: a dispatch row by its word, a path by its words, a frame by its fields. -/
theorem decodeEncodeRoundTrip : Obligations.DecodeEncodeRoundTrip := by
  intro i hwf
  cases i with
  | acquire => exact decode_presentPath (is := [.flush, .read]) rfl rfl
  | validate => exact decode_presentPath (is := [.hdrchk, .sumchk, .extract]) rfl rfl
  | poll => exact decode_presentPath (is := [.tick, .flush, .read, .hdrchk, .sumchk, .extract, .report]) rfl rfl
  | frameA a h l b c d =>
    obtain ⟨ha, hb⟩ := wf_frameA_iff.1 hwf
    exact decode_frameABytes ha hb h l c d
  | _ => exact decode_presentXdw _ _

/-- Settles O51: the bytes that decode are those of the FRAME_A they decode to. -/
theorem decodedFrameKeepsItsBytes : Obligations.DecodedFrameKeepsItsBytes := by
  intro bs i hdec
  obtain ⟨hlen, hhdr, a, h, l, b, c, d, ha, hb, hbytes, rfl⟩ := decode_transport_ok hdec
  exact ⟨wf_frameA_iff.2 ⟨ha, hb⟩, by rw [encode, hbytes], hlen, hhdr⟩

end Sys2Proof.Machine
end

section
/-! Selection (spec/30_encoding.md R100, R101): an operation runs where it is selected and is refused elsewhere. -/

namespace Sys2Proof.Machine

/-- A guarded meaning is refused where the condition its guard tests does not hold. -/
theorem whenSelected_of_not {b : Bool} {P : Prop} (hb : b = true ↔ P) (h : ¬ P) (r : Result) :
    whenSelected b r = .refused .notSelected := by
  rw [Bool.eq_false_iff.2 (mt hb.1 h), whenSelected_false]

/-- Settles O48: the guard of each meaning tests just the condition of its rule; RESET and FRAME_A have none. -/
theorem unselectedOperationRefused : Obligations.UnselectedOperationRefused := by
  intro i s h
  cases i with
  | reset | frameA => exact absurd trivial h
  | describe | wait => exact whenSelected_of_not (State.isIdle_iff s) h _
  | _ => exact whenSelected_of_not (State.isAt_iff ..) h _

/-- A single operation answers a next state wherever it is selected. -/
theorem exec_completes_of_single {i : Instr} (hi : i ∉ pseudoOps) {s : State} (sel : selectedIn i s) :
    ∃ t, exec i s = .next t := by
  suffices ∃ t, OpEffect i s t from this.imp fun _ e => e.exec_eq
  cases i with
  | reset => exact ⟨_, .reset s⟩
  | setup ok =>
    cases ok
    · exact ⟨_, .setupFailed sel⟩
    · exact ⟨_, .setupReady sel⟩
  | tick => exact ⟨_, .tick sel⟩
  | describe => exact ⟨_, .describe sel⟩
  | wait | ignoreSetupReady | ignoreSetupFailed | ignoreTickUninit | ignoreTickFailed =>
    exact ⟨_, .idle (by decide) sel⟩
  | flush =>
    rcases hb : s.transport.arrive.buffer with _ | ⟨b, bs⟩
    · exact ⟨_, .flushEnd sel hb⟩
    · exact ⟨_, .flushByte sel hb⟩
  | read =>
    rcases ha : s.transport.answers with _ | ⟨_ | k | lost, as⟩
    · exact ⟨_, .readUnanswered sel ha⟩
    · exact ⟨_, .readHold sel ha⟩
    · exact ⟨_, opEffect_of_execRead (execRead_of_ok sel ha rfl)⟩
    · exact ⟨_, .readFailed sel ha⟩
  | hdrchk =>
    obtain heq | hne := eq_or_ne (actualHeader s.layout.raw s.fb) s.layout.raw.hdr
    · exact ⟨_, .hdrchkPass sel heq⟩
    · exact ⟨_, .hdrchkFail sel hne⟩
  | sumchk =>
    obtain heq | hne := eq_or_ne (computedSum s.layout.raw s.fb) (receivedSum s.layout.raw s.fb)
    · exact ⟨_, .sumchkPass sel heq⟩
    · exact ⟨_, .sumchkFail sel hne⟩
  | extract => exact ⟨_, .extract sel⟩
  | report =>
    cases ho : s.outv
    · exact ⟨_, .reportFailure sel ho⟩
    · exact ⟨_, .reportValue sel ho⟩
  | acquire | validate | poll => simp [pseudoOps] at hi
  | frameA => exact ⟨_, .frameA ..⟩

end Sys2Proof.Machine
end

section
/-! ACQUIRE is FLUSH ; READ (spec/30_encoding.md R103): the FLUSH of the path and FLUSH iterated by hand end in the same
state, and there one READ is all the rest of the path. -/

namespace Sys2Proof.Machine

/-- FLUSH is refused once it has ended. -/
theorem flushSteps_of_p1 {m : Nat} {s u : State} (hs : s.ph = .p1) (h : flushSteps m s = .next u) : u = s := by
  cases m with
  | zero => cases h; rfl
  | succ m =>
    have refused : exec .flush s = .refused .notSelected :=
      unselectedOperationRefused .flush s fun ⟨_, _, ph⟩ => by simp [hs] at ph
    rw [flushSteps, refused] at h
    cases h

/-- One more iteration of FLUSH in front of the others. -/
theorem flushSteps_succ_of_next {m : Nat} {s v u : State} (hv : exec .flush s = .next v) (h : flushSteps (m + 1) s = .next u) :
    flushSteps m v = .next u := by
  rw [flushSteps, hv] at h
  exact h

/-- Where an iteration of FLUSH leads: to the end, on an empty transport, or on to the next, one byte further (R257). -/
theorem execFlush_cases {s : State} (sel : s.isAt .ready .reading .p0 = true) : ∃ v, exec .flush s = .next v ∧
    (s.transport.arrive.buffer = [] ∧ v.ph = .p1 ∨
     s.transport.arrive.buffer ≠ [] ∧ v.isAt .ready .reading .p0 = true ∧ v.transport = s.transport.discardOne) := by
  rcases hb : s.transport.arrive.buffer with _ | ⟨b, bs⟩
  · exact ⟨_, execFlush_empty sel hb, .inl ⟨rfl, rfl⟩⟩
  · exact ⟨_, execFlush_byte sel hb, .inr ⟨by simp, sel, rfl⟩⟩

/-- A FLUSH that has been iterated to its end is one that ends (duty (a) of R247). -/
theorem flushEnds_of_flushSteps {m : Nat} {s u : State} (sel : s.isAt .ready .reading .p0 = true)
    (h : flushSteps m s = .next u) (hu : u.ph = .p1) : FlushEnds s.transport := by
  induction m generalizing s with
  | zero =>
    cases h
    simp [State.isAt, hu] at sel
  | succ m ih =>
    obtain ⟨v, hv, ⟨hb, -⟩ | ⟨-, sel', htr⟩⟩ := execFlush_cases sel
    · exact ⟨0, hb⟩
    · obtain ⟨k, hk⟩ := ih sel' (flushSteps_succ_of_next hv h)
      exact ⟨k + 1, by rwa [htr] at hk⟩

/-- A FLUSH ends in one state only, however it is iterated. -/
theorem flushAll_flushSteps_unique {n m : Nat} {s t u : State} (sel : s.isAt .ready .reading .p0 = true)
    (hall : flushAll n s = .next t) (ht : t.ph = .p1) (hsteps : flushSteps m s = .next u) (hu : u.ph = .p1) : t = u := by
  obtain ⟨-, -, ph⟩ := (State.isAt_iff ..).1 sel
  induction n generalizing s m with
  | zero =>
    cases hall
    simp [ht] at ph
  | succ n ih =>
    cases m with
    | zero =>
      cases hsteps
      simp [hu] at ph
    | succ m =>
      obtain ⟨v, hv, hcase⟩ := execFlush_cases sel
      have hsteps' := flushSteps_succ_of_next hv hsteps
      rw [flushAll, show execFlush s = .next v from hv] at hall
      obtain ⟨-, hv1⟩ | ⟨-, sel', -⟩ := hcase
      · rw [thenIf_of_not_sel _ (by simp [State.isAt, hv1])] at hall
        cases hall
        exact (flushSteps_of_p1 hv1 hsteps').symm
      · rw [thenIf_of_sel _ sel'] at hall
        exact ih sel' hall hsteps' ((State.isAt_iff ..).1 sel').2.2

/-- READ that is answered leaves Reading, so repeating it is doing it once (R114). -/
theorem readAll_succ_of_answered (n : Nat) {s : State} (sel : selectedIn .read s) {a : ReadAnswer} {as : List ReadAnswer}
    (ha : s.transport.answers = a :: as) (hne : a ≠ .hold) : readAll (n + 1) s = exec .read s := by
  obtain ⟨t, ht, hst⟩ : ∃ t, execRead s = .next t ∧ t.st ≠ .reading := by
    cases a with
    | hold => exact absurd rfl hne
    | ok k =>
      refine ⟨_, execRead_of_ok sel ha rfl, ?_⟩
      unfold acceptRead
      dsimp only
      split <;> simp
    | failed lost => exact ⟨_, execRead_of_failed sel ha, by simp⟩
  rw [readAll, exec, ht, thenIf_of_not_sel _ (by simp [State.isAt, hst])]

/-- Settles O19: both flushes end in `u`, where no answer has been used up and the path's READ is answered at once. -/
theorem acquireIsFlushThenRead : Obligations.AcquireIsFlushThenRead := by
  intro s u m a as lc st ph hsteps hu ha hne
  have sel : s.isAt .ready .reading .p0 = true := (State.isAt_iff ..).2 ⟨lc, st, ph⟩
  obtain ⟨tr, ts, hall, htr, -⟩ :=
    flushAll_of_flushEnds _ sel (flushEnds_of_flushSteps sel hsteps hu) le_rfl
  obtain rfl := flushAll_flushSteps_unique sel hall rfl hsteps hu
  have sel' : selectedIn .read { s with ph := .p1, transport := tr, out := s.out ++ ts } := ⟨lc, st, rfl⟩
  show execAcquire s = _
  rw [execAcquire, sel, whenSelected_true, hall, thenIf_of_sel _ ((State.isAt_iff ..).2 sel'),
    readAll_succ_of_answered _ sel' (htr.trans ha) hne]

end Sys2Proof.Machine
end

section
/-! The selection table (spec/30_encoding.md R100, R101): its rows are disjoint, and what they select is the table in words. -/

namespace Sys2Proof

/-- The rows of R100 are pairwise disjoint. -/
theorem dispatchTable_pairwise_disjoint :
    dispatchTable.Pairwise fun r r' => r.value &&& r'.mask ≠ r'.value &&& r.mask := by decide

/-- Where two rows ask for different values of a bit that both test, no word selects both. -/
theorem not_rowSelects_both {x : Xdw} {r r' : Row} (h : r.value &&& r'.mask ≠ r'.value &&& r.mask)
    (hr : rowSelects x r = true) (hr' : rowSelects x r' = true) : False := by
  simp only [rowSelects, beq_iff_eq] at hr hr'
  exact h (by rw [← hr, ← hr', BitVec.and_assoc, BitVec.and_assoc, BitVec.and_comm r.mask])

/-- No word is selected by two rows (R100). -/
theorem filter_rowSelects_length_le_one (x : Xdw) : (dispatchTable.filter (rowSelects x)).length ≤ 1 := by
  have disjoint := dispatchTable_pairwise_disjoint.filter (rowSelects x)
  have selects : ∀ r ∈ dispatchTable.filter (rowSelects x), rowSelects x r = true := fun r hr => (List.mem_filter.1 hr).2
  match h : dispatchTable.filter (rowSelects x) with
  | [] | [_] => simp
  | r :: r' :: rs =>
    rw [h] at disjoint selects
    have hne := (List.pairwise_cons.1 disjoint).1 r' (by simp)
    exact (not_rowSelects_both hne (selects r (by simp)) (selects r' (by simp))).elim

/-- With the RESET line asserted RESET is selected whatever the rest (R100). -/
theorem decodeXdw_of_rst {x : Xdw} (h : x.getLsbD 8 = true) (ok : Bool) : decodeXdw x ok = .ok .reset := by
  have first : rowSelects x ⟨"RESET", 0x100, 0x100, fun _ => .reset⟩ = true := by
    have hx : x &&& BitVec.twoPow 9 8 = BitVec.twoPow 9 8 := by rw [BitVec.and_twoPow, if_pos h]
    exact beq_iff_eq.2 hx
  have found : dispatchTable.find? (rowSelects x) = some ⟨"RESET", 0x100, 0x100, fun _ => .reset⟩ :=
    List.find?_cons_of_pos first
  simp [decodeXdw, found, h]

/-- The RESET line is bit 8 of the dispatch word (R100). -/
theorem xdwOf_getLsbD_rst (rst : Bool) (lc : Lifecycle) (st : CycleState) (ph : Phase) (ev : Event) :
    (xdwOf rst lc st ph ev).getLsbD 8 = rst := by
  rw [xdwOf, BitVec.getLsbD_append, BitVec.getLsbD_append, BitVec.getLsbD_append, BitVec.getLsbD_append]
  simp

/-- With the RESET line low LC = 3 selects nothing (R101). -/
theorem decodeXdw_of_lc_three {x : Xdw} (hrst : x.getLsbD 8 = false) (hlc : x.extractLsb' 6 2 = 3#2) (ok : Bool) :
    decodeXdw x ok = .error .unusedLifecycle ∨ decodeXdw x ok = .error .noRow := by
  unfold decodeXdw
  split
  next => exact .inr rfl
  next => exact .inl (if_pos (by rw [hrst, hlc]; rfl))

end Sys2Proof

namespace Sys2Proof.Machine

/-- The answer of the decoder for a selection. -/
def selectionResult : Option Instr → Except DecodeError Instr
  | some i => .ok i
  | none => .error .noRow

/-- At Idle, phase 0, the command and LC decide (R100, the command, idle and ignore rows). -/
theorem decodeXdw_xdwOf_idle (lc : Lifecycle) (ev : Event) : decodeXdw (xdwOf false lc .idle .p0 ev) ev.okBit =
    selectionResult (selectionInWords false lc .idle .p0 ev) := by
  cases ev with
  | setup ok => cases ok <;> cases lc <;> rfl
  | none | tick | describe => cases lc <;> rfl

/-- Elsewhere LC, ST and PH decide, whatever the command (R100, the phase rows). -/
theorem decodeXdw_xdwOf_busy {st : CycleState} {ph : Phase} (h : st = .idle → ph ≠ .p0) (lc : Lifecycle) (ev : Event) :
    decodeXdw (xdwOf false lc st ph ev) ev.okBit = selectionResult (selectionInWords false lc st ph ev) := by
  cases st with
  | idle =>
    cases ph with
    | p0 => exact absurd rfl (h rfl)
    | p1 | p2 => cases lc <;> rcases ev with _ | (_ | _) | _ | _ <;> rfl
  | reading | validating | reporting => cases ph <;> cases lc <;> rcases ev with _ | (_ | _) | _ | _ <;> rfl

/-- A dispatch word is decoded as the table in words says (R100). -/
theorem decode_dispatchWord (rst : Bool) (lc : Lifecycle) (st : CycleState) (ph : Phase) (ev : Event) :
    decode (presentXdw (xdwOf rst lc st ph ev) ev.okBit) = selectionResult (selectionInWords rst lc st ph ev) := by
  rw [decode_presentXdw]
  cases rst with
  | true => exact decodeXdw_of_rst (xdwOf_getLsbD_rst ..) _
  | false =>
    by_cases h : st = .idle ∧ ph = .p0
    · obtain ⟨rfl, rfl⟩ := h
      exact decodeXdw_xdwOf_idle lc ev
    · exact decodeXdw_xdwOf_busy (fun st ph => h ⟨st, ph⟩) lc ev

/-- Settles O52: RESET's row tests the RESET line only, the words of all states and commands, and disjoint rows. -/
theorem selectionTable : Obligations.SelectionTable :=
  ⟨fun x ok h => (decode_presentXdw x ok).trans (decodeXdw_of_rst h ok), decode_dispatchWord,
    filter_rowSelects_length_le_one⟩

/-- Settles O53: the dispatch words are counted, and with LC = 3 either no row matches or the code is refused. -/
theorem thirtySixDispatchWords : Obligations.ThirtySixDispatchWords := by
  refine ⟨by decide +kernel, fun x ok hrst hlc => ?_⟩
  rw [decode_presentXdw]
  exact decodeXdw_of_lc_three hrst hlc ok

/-- Settles O54: the six command words and the path of ACQUIRE. -/
theorem specWordsDecode : Obligations.SpecWordsDecode := by
  unfold Obligations.SpecWordsDecode
  decide

end Sys2Proof.Machine
end

section
/-! What a step does with what is presented (spec/30_encoding.md R100), and that no state that meets the invariant is stuck
(spec/70_reset_and_hazards.md R256). -/

namespace Sys2Proof.Machine

/-! ### What is presented, and what becomes of it -/

/-- A presentation that decodes is performed with the input used up. -/
theorem step_of_decode_ok {s : State} {i : Instr} (h : decode (fetch s) = .ok i) : step s = exec i s.advance := by
  rw [step, h]

/-- A presentation that does not decode has no operation. -/
theorem step_of_decode_error {s : State} {e : DecodeError} (h : decode (fetch s) = .error e) :
    step s = undecoded (fetch s) s.advance := by
  rw [step, h]

/-- A command is presented as the dispatch word it makes with the state (R100). -/
theorem fetch_of_command {s : State} {c : Command} {rest : List Input} (h : s.inputs = .command c :: rest) :
    fetch s = dispatchPresentation s c := by
  rw [fetch, h]

/-- With nothing presented the dispatch word is that of no command (R170). -/
theorem fetch_of_nil {s : State} (h : s.inputs = []) : fetch s = dispatchPresentation s Command.idle := by
  rw [fetch, h]

/-- Bytes that arrive are presented by the transport. -/
theorem fetch_of_arrival {s : State} {bs : List Byte} {rest : List Input} (h : s.inputs = .arrival bs :: rest) :
    fetch s = ⟨.transport, bs⟩ := by
  rw [fetch, h]

/-- Only bytes that arrive are presented by the transport. -/
theorem fetch_port_ne_transport {s : State} (h : ∀ bs rest, s.inputs ≠ .arrival bs :: rest) :
    (fetch s).port ≠ .transport := by
  rcases hi : s.inputs with _ | ⟨c | bs | bs, rest⟩
  · simp [fetch_of_nil hi, dispatchPresentation, presentXdw]
  · simp [fetch_of_command hi, dispatchPresentation, presentXdw]
  · simp [fetch, hi]
  · exact absurd hi (h bs rest)

/-- Any other presentation without an operation is refused (U9). -/
theorem undecoded_of_port_ne_transport {p : Presentation} (h : p.port ≠ .transport) (s : State) :
    undecoded p s = .refused .noOperationSelected := by
  unfold undecoded
  split
  next hp => exact absurd hp h
  next => rfl
  next => rfl

/-- Settles O55: the presentation is decoded, or by its port only arrives or is refused. -/
theorem stepRunsDecoded : Obligations.StepRunsDecoded := by
  refine fun s => ⟨fun i h => step_of_decode_ok h, fun e bs rest hin h => ?_, fun e hin h => ?_, fetch_of_nil,
    fun c rest => fetch_of_command⟩
  · rw [step_of_decode_error h, fetch_of_arrival hin]
    simp [undecoded, State.advance, Transport.deliver, hin]
  · rw [step_of_decode_error h, undecoded_of_port_ne_transport (fetch_port_ne_transport hin)]

/-- Settles O56: FRAME_A's meaning is the delivery of its bytes. -/
theorem frameAArrives : Obligations.FrameAArrives := fun _ _ _ _ _ _ _ => rfl

/-! ### No state that meets the invariant is stuck -/

/-- In every state that keeps the rules of R26 the table in words selects a single operation, whatever is presented, and
one that its own rule selects there. -/
theorem exists_selection {s : State} (h : Sequenced s) (rst : Bool) (ev : Event) :
    ∃ i, selectionInWords rst s.lc s.st s.ph ev = some i ∧ i ∉ pseudoOps ∧ selectedIn i s := by
  cases rst with
  | true => exact ⟨.reset, rfl, by decide, trivial⟩
  | false =>
    cases st : s.st with
    | idle =>
      have ph := h.phaseZero (.inl st)
      rw [ph]
      cases ev with
      | none => exact ⟨.wait, rfl, by decide, st, ph⟩
      | describe => exact ⟨.describe, rfl, by decide, st, ph⟩
      | setup ok =>
        cases lc : s.lc with
        | uninit => exact ⟨.setup ok, rfl, by simp [pseudoOps], lc, st, ph⟩
        | ready => exact ⟨.ignoreSetupReady, rfl, by decide, lc, st, ph⟩
        | failed => exact ⟨.ignoreSetupFailed, rfl, by decide, lc, st, ph⟩
      | tick =>
        cases lc : s.lc with
        | uninit => exact ⟨.ignoreTickUninit, rfl, by decide, lc, st, ph⟩
        | ready => exact ⟨.tick, rfl, by decide, lc, st, ph⟩
        | failed => exact ⟨.ignoreTickFailed, rfl, by decide, lc, st, ph⟩
    | reading =>
      have lc := h.busyReady (by simp [st])
      rw [lc]
      cases ph : s.ph with
      | p0 => exact ⟨.flush, rfl, by decide, lc, st, ph⟩
      | p1 => exact ⟨.read, rfl, by decide, lc, st, ph⟩
      | p2 => exact absurd ph (h.phaseReading st)
    | validating =>
      have lc := h.busyReady (by simp [st])
      rw [lc]
      cases ph : s.ph with
      | p0 => exact ⟨.hdrchk, rfl, by decide, lc, st, ph⟩
      | p1 => exact ⟨.sumchk, rfl, by decide, lc, st, ph⟩
      | p2 => exact ⟨.extract, rfl, by decide, lc, st, ph⟩
    | reporting =>
      have lc := h.busyReady (by simp [st])
      have ph := h.phaseZero (.inr st)
      rw [lc, ph]
      exact ⟨.report, rfl, by decide, lc, st, ph⟩

/-- A step on a dispatch word performs the operation selected, and that completes. -/
theorem step_of_dispatchPresentation {s : State} (h : Sequenced s) {c : Command}
    (hf : fetch s = dispatchPresentation s c) : ∃ i t, selectionInWords c.rst s.lc s.st s.ph c.ev = some i ∧
      step s = exec i s.advance ∧ step s = .next t := by
  obtain ⟨i, hi, single, sel⟩ := exists_selection h c.rst c.ev
  have hdec : decode (fetch s) = .ok i := by
    rw [hf, dispatchPresentation, decode_dispatchWord, hi, selectionResult]
  have sel' : selectedIn i s.advance := by cases i <;> exact sel
  obtain ⟨t, ht⟩ := exec_completes_of_single single sel'
  have hstep := step_of_decode_ok hdec
  exact ⟨i, t, hi, hstep, hstep.trans ht⟩

/-- A step on bytes that arrive lets them arrive, be they a frame or not (R68, R81). -/
theorem step_of_arrival {s : State} {bs : List Byte} {rest : List Input} (h : s.inputs = .arrival bs :: rest) :
    step s = .next (deliverBytes bs s.advance) := by
  have hf := fetch_of_arrival h
  cases hdec : decode (fetch s) with
  | ok i =>
    obtain ⟨-, -, a, h', l, b, c, d, -, -, hbytes, rfl⟩ := decode_transport_ok (hf ▸ hdec)
    rw [step_of_decode_ok hdec, ← hbytes]
    rfl
  | error e =>
    rw [step_of_decode_error hdec, hf]
    rfl

/-- Settles O45: nothing presented and a command are dispatch words, and the rest are arrivals. -/
theorem noReachableStateIsStuck : Obligations.NoReachableStateIsStuck := by
  intro s hinv hpath
  have sequenced : Sequenced s := ⟨hinv.busyReady, hinv.phaseZero, hinv.phaseReading⟩
  refine ⟨?_, fun c rest hin => ?_⟩
  · rcases hin : s.inputs with _ | ⟨c | bs | bs, rest⟩
    · obtain ⟨-, t, -, -, ht⟩ := step_of_dispatchPresentation sequenced (fetch_of_nil hin)
      exact ⟨t, ht⟩
    · obtain ⟨-, t, -, -, ht⟩ := step_of_dispatchPresentation sequenced (fetch_of_command hin)
      exact ⟨t, ht⟩
    · exact absurd hin (hpath bs rest)
    · exact ⟨_, step_of_arrival hin⟩
  · obtain ⟨i, -, hi, hstep, -⟩ := step_of_dispatchPresentation sequenced (fetch_of_command hin)
    have hadvance : s.advance = { s with inputs := rest } := by rw [State.advance, hin, List.tail_cons]
    exact ⟨i, hi, hadvance ▸ hstep⟩

end Sys2Proof.Machine
end

section
/-! The acceptance condition as arithmetic: the trailer inside its own span (spec/30_encoding.md R83), and layout A's checksum
constraint (R81). -/

namespace Sys2Proof.Machine

/-! ### The two sums as numbers -/

/-- The sum of a frame as a number (R133). -/
theorem frameSum_toNat {c : FrameLayout} (hcw : c.cw = 1 ∨ c.cw = 2) (F : List Byte) :
    (frameSum c F).toNat = spanTotal c F % 2 ^ (8 * c.cw) := by
  rw [frameSum, BitVec.toNat_ofNat]
  refine Nat.mod_eq_of_lt ((Nat.mod_lt _ (by positivity)).trans_le ?_)
  obtain h | h := hcw <;> simp [h]

/-- A trailer of one byte (R134). -/
theorem frameTrailer_toNat_of_one {c : FrameLayout} (hcw : c.cw = 1) (F : List Byte) :
    (frameTrailer c F).toNat = (frameByte F c.ctOff).toNat := by
  have := (frameByte F c.ctOff).isLt
  rw [frameTrailer, if_pos hcw, BitVec.toNat_setWidth]
  omega

/-- A trailer of two bytes, high byte first (R134, R53). -/
theorem frameTrailer_toNat_of_big {c : FrameLayout} (hcw : c.cw = 2) (hend : c.cend = .big) (F : List Byte) :
    (frameTrailer c F).toNat = (frameByte F c.ctOff).toNat * 256 + (frameByte F (c.ctOff + 1)).toNat := by
  simp [frameTrailer, hcw, hend, be16_toNat]

/-- A trailer of two bytes, low byte first (R134, R53). -/
theorem frameTrailer_toNat_of_little {c : FrameLayout} (hcw : c.cw = 2) (hend : c.cend = .little) (F : List Byte) :
    (frameTrailer c F).toNat = (frameByte F c.ctOff).toNat + 256 * (frameByte F (c.ctOff + 1)).toNat := by
  simp [frameTrailer, hcw, hend, le16_toNat]

/-- Settles O28: the two sums as numbers, from which the trailer's own bytes are taken off. -/
theorem trailerInsideSpan : Obligations.TrailerInsideSpan := by
  intro c F S hwf _ _ _
  have hsum := frameSum_toNat (layoutFacts_of_wf hwf).cw F
  have h0 := (frameByte F c.ctOff).isLt
  have h1 := (frameByte F (c.ctOff + 1)).isLt
  refine ⟨fun hcw hS => ?_, fun hcw hend hS => ?_, fun hcw hend hS => ?_⟩
  · rw [hcw, hS] at hsum
    rw [← BitVec.toNat_inj, hsum, frameTrailer_toNat_of_one hcw]
    omega
  · rw [hcw, hS] at hsum
    rw [← BitVec.toNat_inj, hsum, frameTrailer_toNat_of_big hcw hend]
    omega
  · rw [hcw, hS] at hsum
    rw [← BitVec.toNat_inj, hsum, frameTrailer_toNat_of_little hcw hend]
    omega

/-! ### Layout A -/

/-- A frame that begins with the header is valid exactly when its two sums are equal (R140). -/
theorem validateFrame_eq_measurement_iff {c : FrameLayout} {F : List Byte} (hhdr : F.take c.h = c.hdr) :
    validateFrame c F = .measurement (be16 (frameByte F c.vHi) (frameByte F c.vLo)) ↔ frameSum c F = frameTrailer c F := by
  simp [validateFrame, hhdr]

section
variable {a b : List Byte} (h l c d : Byte) (ha : a.length = 4) (hb : b.length = 22)
include ha

/-- The measurement of layout A is that of the bytes `h` and `l` (R10, R81). -/
theorem measurement_frameA : be16 (frameByte (frameABytes a h l b c d) Config.layoutA.vHi)
    (frameByte (frameABytes a h l b c d) Config.layoutA.vLo) = be16 h l := by
  simp [Config.layoutA, frameABytes_eq, frameByte, ha, List.getElem?_append]

include hb

/-- The span of layout A is all of a FRAME_A before its trailer (R10, R81). -/
theorem spanTotal_frameA : spanTotal Config.layoutA (frameABytes a h l b c d) =
    (([0x42, 0x4D] ++ a ++ [h, l] ++ b : List Byte).map BitVec.toNat).sum := by
  have span : (frameABytes a h l b c d).take 30 = [0x42, 0x4D] ++ a ++ [h, l] ++ b :=
    List.take_left' (by simp [ha, hb])
  rw [spanTotal]
  exact congrArg (fun bs => (bs.map BitVec.toNat).sum) span

/-- The trailer of layout A is the last two bytes of a FRAME_A (R10, R81). -/
theorem frameTrailer_frameA : frameTrailer Config.layoutA (frameABytes a h l b c d) = be16 c d := by
  simp [frameTrailer, Config.layoutA, frameABytes_eq, frameByte, ha, hb]

end

/-- Settles O57: header, span, trailer and measurement of a FRAME_A, and the two sums compared as numbers. -/
theorem frameAConstraint : Obligations.FrameAConstraint := by
  intro a b h l c d ha hb
  have valid := validateFrame_eq_measurement_iff (c := Config.layoutA) (F := frameABytes a h l b c d)
    (by rw [frameABytes_eq]; rfl)
  rw [measurement_frameA h l c d ha, frameTrailer_frameA h l c d ha hb, ← BitVec.toNat_inj,
    frameSum_toNat (.inr rfl), spanTotal_frameA h l c d ha hb, be16_toNat] at valid
  exact eq_comm.trans valid.symm

end Sys2Proof.Machine
end

section
/-! Proofs of the frame reader family: FLUSH iterated to its end or for ever (spec/41_frame_reader.md R111, R113), what READ
does with each answer (R114 to R116, R118), ACQUIRE as `acquire_frame` (R117), and the stale-flush guarantee (R112). -/

namespace Sys2Proof.Machine

/-! ### FLUSH iterated (R111, R113) -/

/-- What an iteration of FLUSH that finds a byte leads to: only the transport and the transactions change. -/
def State.discardOne (s : State) : State :=
  { s with
    transport := s.transport.discardOne,
    out := s.out ++ [.avail s.transport.arrive.buffer.length, .rdbyte (s.transport.arrive.buffer.headD 0)] }

/-- An iteration of FLUSH that finds a byte discards it (R257). -/
theorem exec_flush_of_ne_nil {s : State} (sel : selectedIn .flush s) (hb : s.transport.arrive.buffer ≠ []) :
    exec .flush s = .next s.discardOne := by
  obtain ⟨b, bs, hcons⟩ := List.exists_cons_of_ne_nil hb
  rw [(OpEffect.flushByte sel hcons).exec_eq]
  simp [State.discardOne, State.emit, State.setTransport, hcons]

/-- An iteration of FLUSH that finds no byte ends it (R257). -/
theorem exec_flush_of_nil {s : State} (sel : selectedIn .flush s) (hb : s.transport.arrive.buffer = []) :
    exec .flush s = .next { s with ph := .p1, transport := s.transport.arrive, out := s.out ++ [.avail 0] } := by
  rw [(OpEffect.flushEnd sel hb).exec_eq]
  obtain ⟨-, st, -⟩ := sel
  simp [State.goTo, State.emit, State.setTransport, st]

/-- Settles O10: by induction on the number of bytes discarded, one iteration of FLUSH after the other. -/
theorem flushDiscardsUntilEmpty : Obligations.FlushDiscardsUntilEmpty := by
  intro s m lc st ph hbytes hempty
  have sel : selectedIn .flush s := ⟨lc, st, ph⟩
  induction m generalizing s with
  | zero =>
    have hempty : s.transport.arrive.buffer = [] := hempty
    simp [flushSteps, exec_flush_of_nil sel hempty, flushTransactions, Transport.discard, hempty]
  | succ m ih =>
    have first := exec_flush_of_ne_nil sel (hbytes 0 (by omega))
    have others := ih s.discardOne lc st ph (fun j hj => hbytes (j + 1) (by omega)) hempty sel
    rw [flushSteps, first]
    refine others.trans ?_
    simp [flushTransactions, Transport.discard, State.discardOne]

/-- Where only commands are to come, the dispatch word fetched has the RESET line low. -/
theorem fetch_of_onlyCommands {s : State} (h : OnlyCommands s.inputs) :
    ∃ ev, fetch s = dispatchPresentation s ⟨false, ev⟩ := by
  rcases hin : s.inputs with _ | ⟨i, rest⟩
  · exact ⟨.none, fetch_of_nil hin⟩
  · obtain ⟨ev, rfl⟩ := h i (by simp [hin])
    exact ⟨ev, fetch_of_command hin⟩

/-- At Reading, phase 0, a step is one iteration of FLUSH, whatever command is presented (R161). -/
theorem step_eq_flush {s : State} (sel : selectedIn .flush s) (hin : OnlyCommands s.inputs) :
    step s = exec .flush s.advance := by
  obtain ⟨lc, st, ph⟩ := sel
  obtain ⟨ev, hf⟩ := fetch_of_onlyCommands hin
  apply step_of_decode_ok
  rw [hf, dispatchPresentation, decode_dispatchWord, lc, st, ph]
  rfl

/-- AVAIL and RDBYTE are no PUBLISH. -/
theorem publishes_discardOne (s : State) : publishes s.discardOne.out = publishes s.out := by
  simp [publishes, State.discardOne]

/-- Settles O11: the iteration that writes PH is the one on an empty transport; and while every AVAIL finds a byte, each
step is an iteration that does not. -/
theorem flushNeedNotEnd : Obligations.FlushNeedNotEnd := by
  refine ⟨fun s t h hp => ?_, fun s n lc st ph hin hbytes => ?_⟩
  · cases opEffect_of_exec (by decide) h with
    | idle hi => simp [idleOps] at hi
    | flushEnd => rfl
    | flushByte sel =>
      obtain ⟨-, -, before⟩ := sel
      simp [before] at hp
  · induction n generalizing s with
    | zero => exact ⟨s, rfl, st, ph, rfl⟩
    | succ n ih =>
      have sel : selectedIn .flush s := ⟨lc, st, ph⟩
      have hstep : step s = .next s.advance.discardOne :=
        (step_eq_flush sel hin).trans (exec_flush_of_ne_nil (s := s.advance) sel (hbytes 0))
      obtain ⟨t, hrun, htst, htph, hpub⟩ := ih s.advance.discardOne lc st ph
        (fun i hi => hin i (List.mem_of_mem_tail hi)) (fun m => hbytes (m + 1))
      refine ⟨t, ?_, htst, htph, hpub.trans (publishes_discardOne s.advance)⟩
      rw [run, hstep]
      exact hrun

/-! ### READ with an answer (R114 to R116, R118) -/

/-- The transport after an answer with which up to `n` bytes have left the stream (R59). -/
theorem Transport.arrive_answerTaken_consume {tr : Transport} {a : ReadAnswer} {as : List ReadAnswer}
    (ha : tr.answers = a :: as) (n : Nat) : tr.arrive.answerTaken.consume n =
      { tr.arrive with answers := as, consumed := tr.consumed + min n tr.arrive.buffer.length } := by
  simp [Transport.consume, Transport.answerTaken, ha, Transport.buffer]

/-- Settles O13: L bytes, fewer, or an error, each with what it leaves of the transport. -/
theorem readOperation : Obligations.ReadOperation := by
  intro s lc st ph
  have sel : selectedIn .read s := ⟨lc, st, ph⟩
  refine ⟨fun k as bs ha hbs => ?_, fun lost as ha => ?_⟩
  · have taken : s.transport.arrive.answerTaken.consume (min k s.layout.raw.l) =
        { s.transport.arrive with answers := as, consumed := s.transport.consumed + bs.length } := by
      rw [Transport.arrive_answerTaken_consume ha, hbs, List.length_take]
    refine ⟨fun hl => ⟨_, execRead_of_frame sel ha hbs hl, ?_, fun a => ?_⟩, fun hl => ?_⟩
    · rw [taken]; rfl
    · show Memory.read (storeBytes s.fb 0 bs) a = _
      simp [read_storeBytes, hl]
    · show execRead s = _
      rw [execRead_of_short sel ha hbs hl, taken]; rfl
  · show execRead s = _
    rw [execRead_of_failed sel ha, Transport.arrive_answerTaken_consume ha]; rfl

/-- Settles O15: READ raises an incomplete read, and before it nothing was held. -/
theorem incompleteReadDropsBytes : Obligations.IncompleteReadDropsBytes := by
  intro s k as hinv lc st ph ha hlt
  rw [← List.length_take] at hlt
  obtain ⟨noData, flags, -⟩ := hinv.reading st
  exact ⟨_, execRead_of_short ⟨lc, st, ph⟩ ha rfl hlt, rfl, rfl, rfl, flags.outv, noData.fb, noData.da, noData.db,
    by simp, by simp⟩

/-- Settles O16: READ raises a transport error, and before it nothing was held. -/
theorem transportErrorNeverFrame : Obligations.TransportErrorNeverFrame := by
  intro s lost as hinv lc st ph ha
  obtain ⟨noData, flags, -⟩ := hinv.reading st
  exact ⟨_, execRead_of_failed ⟨lc, st, ph⟩ ha, rfl, rfl, rfl, flags.outv, noData.cnt, noData.fb, noData.da, noData.db⟩

/-! ### ACQUIRE (R117) -/

/-- The answers of RDEXACT in two sequences of transactions, one after the other. -/
theorem readResults_append (o ts : List Transaction) : readResults (o ++ ts) = readResults o ++ readResults ts :=
  List.filterMap_append

/-- The reports in two sequences of transactions, one after the other. -/
theorem reports_append (o ts : List Transaction) : reports (o ++ ts) = reports o ++ reports ts :=
  List.filter_append ..

/-- Where the flush ends, the rest of ACQUIRE is READ until it is answered; so far only PH, the transport and the
transactions have changed, and nothing has been reported or read (R117). -/
theorem exec_acquire_of_flushEnds {s : State} (sel : selectedIn .acquire s) (hflush : FlushEnds s.transport) :
    ∃ tr ts, exec .acquire s =
        readAll (tr.answers.length + 1) { s with ph := .p1, transport := tr, out := s.out ++ ts } ∧
      tr.answers = s.transport.answers ∧ reports ts = [] ∧ readResults ts = [] := by
  have sel' : s.isAt .ready .reading .p0 = true := (State.isAt_iff ..).2 sel
  obtain ⟨tr, ts, hall, rest⟩ := flushAll_of_flushEnds _ sel' hflush le_rfl
  obtain ⟨lc, st, -⟩ := sel
  refine ⟨tr, ts, ?_, rest⟩
  show execAcquire s = _
  have selRead : State.isAt { s with ph := .p1, transport := tr, out := s.out ++ ts } .ready .reading .p1 = true :=
    (State.isAt_iff ..).2 ⟨lc, st, rfl⟩
  rw [execAcquire, sel', whenSelected_true, hall, thenIf_of_sel _ selRead]

section
variable {o ts : List Transaction}

/-- After a flush and one RDEXACT the one answer more is that of RDEXACT. -/
theorem readResults_acquire (hts : readResults ts = []) (n : Nat) (r : ReadResult) :
    readResults (o ++ ts ++ [.rdexact n r]) = readResults o ++ [r] := by
  rw [readResults_append, readResults_append, hts, List.append_nil]
  rfl

/-- After a flush and one RDEXACT nothing more has been reported. -/
theorem reports_acquire (hts : reports ts = []) (n : Nat) (r : ReadResult) :
    reports (o ++ ts ++ [.rdexact n r]) = reports o := by
  rw [reports_append, reports_append, hts, List.append_nil]
  exact List.append_nil _

end

/-- Settles O18: after the flush READ is answered, with an error, with fewer than L bytes, or with the frame. -/
theorem acquireIsAcquireFrame : Obligations.AcquireIsAcquireFrame := by
  intro s lc st ph hflush hread
  obtain ⟨tr, ts, hacquire, hanswers, hreports, hresults⟩ := exec_acquire_of_flushEnds ⟨lc, st, ph⟩ hflush
  obtain ⟨tr', hfailed | ⟨bs, hle, hbytes⟩⟩ := readAll_of_readReturns (tr.answers.length + 1)
    (s := { s with ph := .p1, transport := tr, out := s.out ++ ts }) ((State.isAt_iff ..).2 ⟨lc, st, rfl⟩)
    (by rwa [ReadReturns, hanswers]) (Nat.le_succ _)
  · exact ⟨_, .failed, hacquire.trans hfailed, readResults_acquire hresults _ _, reports_acquire hreports _ _,
      rfl, rfl, rfl, rfl, rfl⟩
  · obtain hl | hl := hle.lt_or_eq
    · refine ⟨_, .bytes bs, hacquire.trans (hbytes.trans (congrArg _ (acceptRead_of_lt hl))),
        readResults_acquire hresults _ _, reports_acquire hreports _ _, rfl, ?_⟩
      rw [acquireFrame, if_pos hl]
      exact ⟨rfl, rfl, rfl⟩
    · refine ⟨_, .bytes bs, hacquire.trans (hbytes.trans (congrArg _ (acceptRead_of_length_eq hl))),
        readResults_acquire hresults _ _, reports_acquire hreports _ _, rfl, ?_⟩
      rw [acquireFrame, if_neg hl.not_lt]
      exact ⟨rfl, rfl, frameIn_of_stored hl rfl⟩

/-! ### The stale-flush guarantee (R112) -/

/-- FB holds the L bytes of the stream from position `p` on, and these are the last that have been consumed. -/
structure SliceAt (p : Nat) (s : State) : Prop where
  consumed : p + s.layout.raw.l = s.transport.consumed
  bytes : ∀ i, i < s.layout.raw.l → Memory.read s.fb i = s.transport.received[p + i]?

/-- The cycle that runs holds no byte of the first `n` of the stream: these have arrived, FLUSH ends beyond them, and the
frame READ stores is taken from a position beyond them. -/
structure Fresh (n : Nat) (s : State) : Prop where
  inv : Inv s
  arrived : n ≤ s.transport.received.length
  flushed : s.st = .reading → s.ph = .p1 → n ≤ s.transport.consumed
  slice : s.st = .validating → ∃ p, n ≤ p ∧ SliceAt p s

section
variable {n : Nat} {s t : State}

/-- More bytes that arrive leave the slice as it is. -/
theorem SliceAt.deliver {p : Nat} (h : SliceAt p s) (pos : s.transport.consumed ≤ s.transport.received.length)
    (bs : List Byte) : SliceAt p (deliverBytes bs s) where
  consumed := h.consumed
  bytes i hi := by
    have : i < s.layout.raw.l := hi
    have := h.consumed
    rw [deliverBytes_transport, Transport.deliver_received, List.getElem?_append_left (by omega)]
    exact h.bytes i hi

theorem Fresh.deliver (h : Fresh n s) (bs : List Byte) : Fresh n (deliverBytes bs s) where
  inv := inv_deliverBytes h.inv bs
  arrived := by have := h.arrived; simp; omega
  flushed := h.flushed
  slice st := (h.slice st).imp fun _ hp => hp.imp_right (·.deliver h.inv.position bs)

theorem Fresh.advance (h : Fresh n s) : Fresh n s.advance :=
  ⟨inv_advance h.inv, h.arrived, h.flushed, fun st => (h.slice st).imp fun _ hp => hp.imp_right fun c => { c with }⟩

/-- What leads to Reading, phase 1, beyond the first `n` bytes: FLUSH on an empty transport, and what starts there. -/
theorem OpEffect.flushed {i : Instr} (e : OpEffect i s t) (h : Fresh n s) (st : t.st = .reading) (ph : t.ph = .p1) :
    n ≤ t.transport.consumed := by
  have advanced := (e.later (.refl h.inv.position)).consumed_le
  cases e with
  | flushEnd sel hb =>
    calc n ≤ s.transport.received.length := h.arrived
      _ ≤ s.transport.arrive.received.length := s.transport.arrive_length_le
      _ ≤ s.transport.arrive.consumed := (Transport.buffer_eq_nil _).1 hb
  | readUnanswered | readHold | describe | idle | frameA => exact (h.flushed st ph).trans advanced
  | flushByte sel =>
    obtain ⟨-, -, before⟩ := sel
    simp [before] at ph
  | tick => simp at ph
  | setupReady sel | setupFailed sel =>
    obtain ⟨-, before, -⟩ := sel
    simp [before] at st
  | _ => simp at st

/-- What leads to Validating with a slice from beyond the first `n` bytes: READ from such a position, and what leaves FB
and the position as they are. -/
theorem OpEffect.slice {i : Instr} (e : OpEffect i s t) (h : Fresh n s) (st : t.st = .validating) :
    ∃ p, n ≤ p ∧ SliceAt p t := by
  cases e with
  | readFrame sel ha hbs hl =>
    have read := (OpEffect.readFrame sel ha hbs hl).exec_eq
    obtain ⟨-, reading, ph⟩ := sel
    refine ⟨s.transport.consumed, h.flushed reading ph, ?_, frameIsInOrderOfArrival s _ h.inv read rfl⟩
    rw [hbs, List.length_take] at hl
    simp [hl]
  | hdrchkPass sel | sumchkPass sel =>
    obtain ⟨-, validating, -⟩ := sel
    obtain ⟨p, hp, slice⟩ := h.slice validating
    exact ⟨p, hp, { slice with }⟩
  | describe =>
    obtain ⟨p, hp, slice⟩ := h.slice st
    exact ⟨p, hp, { slice with }⟩
  | idle => exact h.slice st
  | frameA => exact (h.deliver _).slice st
  | setupReady sel | setupFailed sel | flushByte sel | readUnanswered sel | readHold sel =>
    obtain ⟨-, before, -⟩ := sel
    simp [before] at st
  | _ => simp at st

/-- Every operation keeps the cycle free of the first `n` bytes. -/
theorem OpEffect.fresh {i : Instr} (e : OpEffect i s t) (h : Fresh n s) : Fresh n t where
  inv := e.inv h.inv
  arrived := by
    obtain ⟨bs, hbs⟩ := (e.later (.refl h.inv.position)).received
    rw [hbs, List.length_append]
    exact h.arrived.trans (Nat.le_add_right ..)
  flushed := e.flushed h
  slice := e.slice h

end

/-- Settles O12: an idle cycle holds no byte at all, and every step keeps it free of what had arrived then. -/
theorem staleBytesNeverEnterFrame : Obligations.StaleBytesNeverEnterFrame := by
  intro s t n hinv st hrun
  have idle : Fresh s.transport.received.length s := ⟨hinv, le_rfl, by simp [st], by simp [st]⟩
  have fresh : Fresh s.transport.received.length t := run_preserves
    (fun _ _ hu hstep => step_preserves (fun _ h => h.advance) (fun bs _ h => h.deliver bs)
      (fun _ _ _ e h => e.fresh h) hstep hu) n idle hrun
  refine ⟨fresh.flushed, fun ht => ?_⟩
  obtain ⟨p, hp, slice⟩ := fresh.slice ht
  refine ⟨p, hp, slice.consumed, fun i hi => ⟨slice.bytes i hi, ?_⟩⟩
  have := slice.consumed
  have := fresh.inv.position
  omega

end Sys2Proof.Machine
end

section
/-! Proofs of the frame validator family: HDRCHK (spec/42_frame_validator.md R131, R132), SUMCHK (R133 to R138), EXTRACT (R139)
and VALIDATE (R140, R141) on a whole frame, and that a published value is the measurement of a valid frame (R140, R32). -/

namespace Sys2Proof.Machine

/-! ### The operations on a whole frame -/

/-- The header stands at the frame's beginning exactly when each of its bytes does (R131). -/
theorem take_eq_hdr_iff (c : FrameLayout) (F : List Byte) :
    F.take c.h = c.hdr ↔ ∀ j, j < c.h → F[j]? = c.hdr[j]? := by
  refine ⟨fun h j hj => ?_, fun h => List.ext_getElem? fun j => ?_⟩
  · rw [← h, List.getElem?_take_of_lt hj]
  · by_cases hj : j < c.h
    · rw [List.getElem?_take_of_lt hj, h j hj]
    · rw [List.getElem?_take_eq_none (Nat.le_of_not_lt hj), List.getElem?_eq_none (Nat.le_of_not_lt hj)]

/-- What a frame holds at an index is its byte there. -/
theorem frameByte_of_getElem? {F : List Byte} {i : Nat} {b : Byte} (h : F[i]? = some b) : frameByte F i = b := by
  simp [frameByte, h]

section
variable {s : State} {F : List Byte} (frame : FrameIn s F)
include frame

/-- HDRCHK passes a frame that begins with the header (R131). -/
theorem exec_hdrchk_of_eq (sel : selectedIn .hdrchk s) (heq : F.take s.layout.raw.h = s.layout.raw.hdr) :
    exec .hdrchk s = .next { s with hok := true, ph := .p1 } := by
  rw [(OpEffect.hdrchkPass sel ((actualHeader_frame frame).trans heq)).exec_eq]
  obtain ⟨-, st, -⟩ := sel
  simp [State.goTo, st]

/-- HDRCHK raises on every other frame, with all the H bytes expected and found (R132). -/
theorem exec_hdrchk_of_ne (sel : selectedIn .hdrchk s) (hne : F.take s.layout.raw.h ≠ s.layout.raw.hdr) :
    exec .hdrchk s = .next { s with
      fk := .badHeader, da := some (.bytes s.layout.raw.hdr), db := some (.bytes (F.take s.layout.raw.h)),
      st := .reporting, ph := .p0 } := by
  rw [← actualHeader_frame frame] at hne ⊢
  exact (OpEffect.hdrchkFail sel hne).exec_eq

/-- SUMCHK compares the two sums of the frame (R133 to R135). -/
theorem exec_sumchk_eq (sel : selectedIn .sumchk s) :
    exec .sumchk s = .next (compareSums (frameSum s.layout.raw F) (frameTrailer s.layout.raw F) s) := by
  show execSumchk s = _
  rw [execSumchk, (State.isAt_iff ..).2 sel, whenSelected_true, computedSum_frame frame, receivedSum_frame frame]

/-- SUMCHK passes a frame whose sums agree (R135). -/
theorem exec_sumchk_of_eq (sel : selectedIn .sumchk s)
    (heq : frameSum s.layout.raw F = frameTrailer s.layout.raw F) :
    exec .sumchk s = .next { s with
      acc := some (frameSum s.layout.raw F), rxsum := some (frameTrailer s.layout.raw F), sok := true, ph := .p2 } := by
  rw [exec_sumchk_eq frame sel, heq, compareSums_self]
  obtain ⟨-, st, -⟩ := sel
  simp [State.goTo, st]

/-- SUMCHK raises on every other frame, with both sums (R135). -/
theorem exec_sumchk_of_ne (sel : selectedIn .sumchk s)
    (hne : frameSum s.layout.raw F ≠ frameTrailer s.layout.raw F) :
    exec .sumchk s = .next { s with
      acc := some (frameSum s.layout.raw F), rxsum := some (frameTrailer s.layout.raw F), fk := .badChecksum,
      da := some (.sum (frameSum s.layout.raw F)), db := some (.sum (frameTrailer s.layout.raw F)),
      st := .reporting, ph := .p0 } := by
  rw [exec_sumchk_eq frame sel, compareSums_of_ne hne]
  rfl

/-- EXTRACT takes the measurement out of the frame (R139). -/
theorem exec_extract_of_frame (sel : selectedIn .extract s) :
    exec .extract s = .next { s with
      meas := some (be16 (frameByte F s.layout.raw.vHi) (frameByte F s.layout.raw.vLo)), outv := true,
      st := .reporting, ph := .p0 } := by
  rw [(OpEffect.extract sel).exec_eq, measurement_frame frame]
  rfl

end

/-- Settles O20: all the header's bytes match exactly when HDRCHK's comparison of the two sequences does. -/
theorem hdrchkOperation : Obligations.HdrchkOperation := by
  intro s F lc st ph frame
  have sel : selectedIn .hdrchk s := ⟨lc, st, ph⟩
  refine ⟨fun hall => exec_hdrchk_of_eq frame sel ((take_eq_hdr_iff ..).2 hall), fun ⟨j, hj, hne⟩ => ?_⟩
  exact exec_hdrchk_of_ne frame sel fun heq => hne ((take_eq_hdr_iff ..).1 heq j hj)

/-- Settles O21: the running sum is the true sum reduced once, and a true sum does not depend on the order. -/
theorem computedSumWraps : Obligations.ComputedSumWraps := by
  refine ⟨fun s F frame => ?_, fun cw bs cs hcw hperm => BitVec.eq_of_toNat_eq ?_⟩
  · rw [computedSum_frame frame, frameSum_toNat (layoutFacts s).cw, spanTotal]
  · rw [runningSum_toNat hcw _ (by simp), runningSum_toNat hcw _ (by simp), (hperm.map BitVec.toNat).sum_eq]

/-- Settles O22: the trailer of the frame as a number, by its width and byte order. -/
theorem receivedSumByWidthAndOrder : Obligations.ReceivedSumByWidthAndOrder := by
  intro s F b0 frame h0
  rw [receivedSum_frame frame, ← frameByte_of_getElem? h0]
  refine ⟨fun hcw => frameTrailer_toNat_of_one hcw F, fun b1 hcw h1 => ?_⟩
  rw [← frameByte_of_getElem? h1]
  exact ⟨fun hend => frameTrailer_toNat_of_big hcw hend F, fun hend => frameTrailer_toNat_of_little hcw hend F⟩

/-- Settles O23: SUMCHK on a frame whose sums agree and on one whose sums differ. -/
theorem sumchkOperation : Obligations.SumchkOperation := fun _ _ lc st ph frame =>
  ⟨exec_sumchk_of_eq frame ⟨lc, st, ph⟩, exec_sumchk_of_ne frame ⟨lc, st, ph⟩⟩

/-- Settles O24: EXTRACT reads the two value bytes, which are written. -/
theorem extractOperation : Obligations.ExtractOperation := by
  intro s hi lo lc st ph hhi hlo
  refine ⟨measurement s.layout.raw s.fb, ?_, (OpEffect.extract ⟨lc, st, ph⟩).exec_eq⟩
  rw [measurement, be16_toNat, fbByte_of_read hhi, fbByte_of_read hlo]

/-- Settles O27: in both states SUMCHK compares the same two sums. -/
theorem sumchkDependsOnFrameAlone : Obligations.SumchkDependsOnFrameAlone := by
  intro s1 s2 F hlayout frame1 frame2 lc1 st1 ph1 lc2 st2 ph2
  by_cases heq : frameSum s1.layout.raw F = frameTrailer s1.layout.raw F
  · exact ⟨_, _, exec_sumchk_of_eq frame1 ⟨lc1, st1, ph1⟩ heq,
      exec_sumchk_of_eq frame2 ⟨lc2, st2, ph2⟩ (hlayout ▸ heq), by simp [hlayout], by simp [hlayout], rfl, rfl,
      st1.trans st2.symm, rfl⟩
  · exact ⟨_, _, exec_sumchk_of_ne frame1 ⟨lc1, st1, ph1⟩ heq,
      exec_sumchk_of_ne frame2 ⟨lc2, st2, ph2⟩ (hlayout ▸ heq), by simp [hlayout], by simp [hlayout], rfl, rfl,
      rfl, rfl⟩

/-! ### The function `validate` (R140, R141) -/

/-- A frame without the header fails first of all (R140). -/
theorem validateFrame_of_header_ne {c : FrameLayout} {F : List Byte} (hne : F.take c.h ≠ c.hdr) :
    validateFrame c F = .badHeader c.hdr (F.take c.h) := by
  rw [validateFrame, if_pos hne]

/-- A frame with the header whose sums differ fails next (R140). -/
theorem validateFrame_of_sums_ne {c : FrameLayout} {F : List Byte} (heq : F.take c.h = c.hdr)
    (hne : frameSum c F ≠ frameTrailer c F) :
    validateFrame c F = .badChecksum (frameSum c F) (frameTrailer c F) := by
  rw [validateFrame, if_neg (not_not.2 heq), if_pos hne]

/-- `validate` returns a measurement exactly on a valid frame, and it is that of the value bytes (R140). -/
theorem validateFrame_eq_measurement {c : FrameLayout} {F : List Byte} {n : Word16} :
    validateFrame c F = .measurement n ↔
      (F.take c.h = c.hdr ∧ frameSum c F = frameTrailer c F) ∧ be16 (frameByte F c.vHi) (frameByte F c.vLo) = n := by
  by_cases hhdr : F.take c.h = c.hdr
  · by_cases hsum : frameSum c F = frameTrailer c F
    · simp [(validateFrame_eq_measurement_iff hhdr).2 hsum, hhdr, hsum]
    · simp [validateFrame_of_sums_ne hhdr hsum, hsum]
  · simp [validateFrame_of_header_ne hhdr, hhdr]

/-- The measurement of a valid frame as a number (R139). -/
theorem toNat_of_validateFrame {c : FrameLayout} {F : List Byte} {n : Word16} (h : validateFrame c F = .measurement n) :
    n.toNat = (frameByte F c.vHi).toNat * 256 + (frameByte F c.vLo).toNat := by
  obtain ⟨-, rfl⟩ := validateFrame_eq_measurement.1 h
  exact be16_toNat _ _

/-- VALIDATE is its three operations, each later one where the earlier has led to it (R103). -/
theorem exec_validate_eq {s : State} (sel : selectedIn .validate s) : exec .validate s =
    thenIf (thenIf (exec .hdrchk s) (·.isAt .ready .validating .p1) (exec .sumchk))
      (·.isAt .ready .validating .p2) (exec .extract) := by
  show execValidate s = _
  rw [execValidate, (State.isAt_iff ..).2 sel, whenSelected_true]
  rfl

/-- Settles O25: by the frame's header and then its sums, VALIDATE ends after HDRCHK, after SUMCHK, or with EXTRACT. -/
theorem validateIsValidate : Obligations.ValidateIsValidate := by
  refine ⟨fun s F lc st ph frame => ?_, fun c F => ?_, fun c F n => toNat_of_validateFrame⟩
  · have sel : selectedIn .validate s := ⟨lc, st, ph⟩
    by_cases hhdr : F.take s.layout.raw.h = s.layout.raw.hdr
    · have passed := exec_hdrchk_of_eq frame sel hhdr
      have frame1 : FrameIn { s with hok := true, ph := .p1 } F := { frame with }
      have sel1 : selectedIn .sumchk { s with hok := true, ph := .p1 } := ⟨lc, st, rfl⟩
      by_cases hsum : frameSum s.layout.raw F = frameTrailer s.layout.raw F
      · rw [(validateFrame_eq_measurement_iff hhdr).2 hsum, exec_validate_eq sel, passed,
          thenIf_of_sel _ ((State.isAt_iff ..).2 sel1), exec_sumchk_of_eq frame1 sel1 hsum,
          thenIf_of_sel _ (by simp [State.isAt, lc, st])]
        exact exec_extract_of_frame { frame with } ⟨lc, st, rfl⟩
      · rw [validateFrame_of_sums_ne hhdr hsum, exec_validate_eq sel, passed,
          thenIf_of_sel _ ((State.isAt_iff ..).2 sel1), exec_sumchk_of_ne frame1 sel1 hsum]
        exact thenIf_of_not_sel _ (by simp [State.isAt])
    · rw [validateFrame_of_header_ne hhdr, exec_validate_eq sel, exec_hdrchk_of_ne frame sel hhdr,
        thenIf_of_not_sel _ (by simp [State.isAt])]
      exact thenIf_of_not_sel _ (by simp [State.isAt])
  · simp [validateFrame_eq_measurement]

/-- Settles O26: at the index of the changed byte the frame no longer agrees with the header. -/
theorem changedHeaderByteIsBadHeader : Obligations.ChangedHeaderByteIsBadHeader := by
  intro c F hlen hle hhdr
  refine ⟨fun hsum => ⟨_, (validateFrame_eq_measurement_iff hhdr).2 hsum⟩, fun j b hj hne => ?_⟩
  refine validateFrame_of_header_ne fun heq => hne ?_
  calc F[j]? = c.hdr[j]? := (take_eq_hdr_iff ..).1 hhdr j hj
    _ = (F.set j b)[j]? := ((take_eq_hdr_iff ..).1 heq j hj).symm
    _ = some b := List.getElem?_set_self (by omega)

/-! ### A published value (R140, R166) -/

/-- No single operation but REPORT publishes (R167). -/
theorem OpEffect.publishes_eq {i : Instr} {s t : State} (e : OpEffect i s t) (hi : i ≠ .report) :
    publishes t.out = publishes s.out := by
  cases e with
  | reportValue | reportFailure => exact absurd rfl hi
  | _ => simp [publishes]

/-- No operation takes back a transport transaction. -/
theorem OpEffect.transportOps_length_le {i : Instr} {s t : State} (e : OpEffect i s t) :
    (transportOps s.out).length ≤ (transportOps t.out).length := by
  cases e <;> simp [transportOps]

/-- Nothing has been done since the transactions `o`, and FLUSH stands before everything else of a cycle. -/
structure BeforeFlush (o : List Transaction) (s : State) : Prop where
  out : s.out = o
  stage : s.st = .idle ∨ s.st = .reading ∧ s.ph = .p0

/-- From before its FLUSH a cycle goes on by TICK, or by FLUSH, which uses the transport (R111). -/
theorem OpEffect.beforeFlush {o : List Transaction} {i : Instr} {s t : State} (e : OpEffect i s t) (hi : i ∈ pathOps)
    (h : BeforeFlush o s) : BeforeFlush o t ∨ (transportOps o).length < (transportOps t.out).length := by
  obtain ⟨rfl, stage⟩ := h
  cases e with
  | tick => exact .inl ⟨rfl, .inr ⟨rfl, rfl⟩⟩
  | idle => exact .inl ⟨rfl, stage⟩
  | flushEnd | flushByte => exact .inr (by simp [transportOps])
  | reset | setupReady | setupFailed | describe | frameA => simp [pathOps] at hi
  | _ sel =>
    obtain ⟨-, st, ph⟩ := sel
    simp [st, ph] at stage

/-- A POLL that makes a transaction makes one at the transport. -/
theorem transportOps_ne_of_poll {s t : State} (h : exec .poll s = .next t) (hout : t.out ≠ s.out) :
    transportOps t.out ≠ transportOps s.out := by
  obtain ⟨-, st, -⟩ := (State.isAt_iff ..).1 (whenSelected_next.1 h).1
  have start : BeforeFlush s.out s := ⟨rfl, .inl st⟩
  obtain before | more := pseudoOps_preserve
    (P := fun u => BeforeFlush s.out u ∨ (transportOps s.out).length < (transportOps u.out).length)
    (fun i u v hi e hu => hu.elim (e.beforeFlush hi) fun hlt => .inr (hlt.trans_le e.transportOps_length_le))
    (by decide) h (.inl start)
  · exact absurd before.out hout
  · exact fun heq => more.ne' (congrArg List.length heq)

/-- No operation but REPORT and POLL publishes (R167). -/
theorem publishes_eq_of_exec {i : Instr} {s t : State} (h : exec i s = .next t) (hreport : i ≠ .report)
    (hpoll : i ≠ .poll) : publishes t.out = publishes s.out := by
  have keep : ∀ j u v, j ≠ .report → OpEffect j u v → publishes u.out = publishes s.out →
      publishes v.out = publishes s.out := fun _ _ _ hj e hu => (e.publishes_eq hj).trans hu
  by_cases hi : i ∈ pseudoOps
  · simp only [pseudoOps, List.mem_cons, List.not_mem_nil, or_false, hpoll] at hi
    obtain rfl | rfl := hi
    · exact acquire_preserves (fun j u v hj => keep j u v (by rintro rfl; simp at hj)) h rfl
    · exact validate_preserves (fun j u v hj => keep j u v (by rintro rfl; simp at hj)) h rfl
  · exact (opEffect_of_exec hi h).publishes_eq hreport

/-- An operation that makes one transaction, a PUBLISH, is REPORT. -/
theorem eq_report_of_out_eq {i : Instr} {s t : State} {p : Option Word16} (h : exec i s = .next t)
    (hout : t.out = s.out ++ [.publish p]) : i = .report := by
  by_contra hreport
  by_cases hpoll : i = .poll
  · subst hpoll
    exact transportOps_ne_of_poll h (by simp [hout]) (by simp [hout, transportOps])
  · have kept := publishes_eq_of_exec h hreport hpoll
    simp [hout, publishes] at kept

/-- In Reporting with OUTV set a valid frame is held, and MEAS is its measurement (R32). -/
theorem ReportingData.valueData {s : State} (h : ReportingData s) (ho : s.outv = true) : ∃ F, ValueData s F := by
  cases h with
  | value F d => exact ⟨F, d⟩
  | badHeader F d => simp [d.flags.outv] at ho
  | badChecksum F d => simp [d.flags.outv] at ho
  | transport d => simp [d.flags.outv] at ho

/-- Settles O34: such a step is a REPORT with OUTV set, where the invariant has a valid frame. -/
theorem publishedValueIsOfValidFrame : Obligations.PublishedValueIsOfValidFrame := by
  intro s t n hinv hstep hout
  obtain ⟨i, hexec⟩ | ⟨bs, rfl⟩ := step_cases hstep
  · obtain rfl := eq_report_of_out_eq hexec hout
    obtain ⟨sel, ⟨ho, rfl⟩ | ⟨-, rfl⟩⟩ := execReport_next hexec
    · obtain ⟨-, st, -⟩ := (State.isAt_iff ..).1 sel
      obtain ⟨F, d⟩ := (hinv.reporting st).valueData ho
      obtain ⟨m, hm, hvalid⟩ := d.meas
      obtain rfl : m = n := by simpa [hm] using hout
      obtain ⟨⟨hhdr, hsum⟩, -⟩ := validateFrame_eq_measurement.1 hvalid
      exact ⟨F, d.frame.frameIn, hhdr, hsum, toNat_of_validateFrame hvalid⟩
    · simp at hout
  · simp at hout

end Sys2Proof.Machine
end

section
/-! Proofs of the poll cycle family: the command port (spec/43_poll_cycle.md R160 to R162, R170) and REPORT (R167, R168). -/

namespace Sys2Proof.Machine

/-! ### What is selected when a command is presented -/

/-- A step on a dispatch word performs the operation the table in words gives (R100). -/
theorem step_of_selection {s : State} {c : Command} {i : Instr} (hf : fetch s = dispatchPresentation s c)
    (hi : selectionInWords c.rst s.lc s.st s.ph c.ev = some i) : step s = exec i s.advance := by
  apply step_of_decode_ok
  rw [hf, dispatchPresentation, decode_dispatchWord, hi, selectionResult]

/-- A step with a command presented performs the operation selected on the state without that input (R100). -/
theorem step_command {s : State} {c : Command} {i : Instr} (rest : List Input)
    (hi : selectionInWords c.rst s.lc s.st s.ph c.ev = some i) :
    step { s with inputs := .command c :: rest } = exec i { s with inputs := rest } :=
  step_of_selection (s := { s with inputs := .command c :: rest }) rfl hi

/-- RESET is selected by the RESET line only (R100). -/
theorem rst_of_selectionInWords_reset {rst : Bool} {lc : Lifecycle} {st : CycleState} {ph : Phase} {ev : Event} :
    selectionInWords rst lc st ph ev = some .reset → rst = true := by
  fun_cases selectionInWords rst lc st ph ev <;> simp

/-- During a cycle the command presented makes no difference to what is selected (R161 (e)). -/
theorem selectionInWords_of_busy {st : CycleState} (h : st ≠ .idle) (lc : Lifecycle) (ph : Phase) (ev ev' : Event) :
    selectionInWords false lc st ph ev = selectionInWords false lc st ph ev' := by
  cases st with
  | idle => exact absurd rfl h
  | reading | validating | reporting => cases lc <;> cases ph <;> rfl

/-- When idle a command that is not accepted selects WAIT or an IGNORE row (R161, R170). -/
theorem exists_idleOps_of_not_accepted {s : State} {ev : Event} (st : s.st = .idle) (ph : s.ph = .p0)
    (h : ¬ accepted ev s) :
    ∃ i ∈ idleOps, selectionInWords false s.lc s.st s.ph ev = some i ∧ selectedIn i s := by
  rw [st, ph]
  cases ev with
  | none => exact ⟨.wait, by decide, rfl, st, ph⟩
  | describe => exact absurd st h
  | setup ok =>
    cases lc : s.lc with
    | uninit => exact absurd ⟨lc, st⟩ h
    | ready => exact ⟨.ignoreSetupReady, by decide, rfl, lc, st, ph⟩
    | failed => exact ⟨.ignoreSetupFailed, by decide, rfl, lc, st, ph⟩
  | tick =>
    cases lc : s.lc with
    | uninit => exact ⟨.ignoreTickUninit, by decide, rfl, lc, st, ph⟩
    | ready => exact absurd ⟨lc, st⟩ h
    | failed => exact ⟨.ignoreTickFailed, by decide, rfl, lc, st, ph⟩

/-- Settles O8: an ignored command selects an operation that changes nothing when idle, and in a cycle the operation
selected without it; an accepted command selects its own. -/
theorem ignoredCommandsLeaveNoTrace : Obligations.IgnoredCommandsLeaveNoTrace := by
  refine ⟨fun s st ph => ⟨fun lc => ?_, fun lc => ?_, fun lc => ?_, fun lc => ?_⟩,
    fun s ev rest hinv hev => ⟨fun st => ?_, fun st => ?_⟩,
    fun s rest hinv => ⟨fun ⟨lc, st⟩ => ?_, fun st => ?_, fun ok ⟨lc, st⟩ => ?_⟩⟩
  · exact exec_idleOps (i := .ignoreSetupReady) (by decide) ⟨lc, st, ph⟩
  · exact exec_idleOps (i := .ignoreSetupFailed) (by decide) ⟨lc, st, ph⟩
  · exact exec_idleOps (i := .ignoreTickUninit) (by decide) ⟨lc, st, ph⟩
  · exact exec_idleOps (i := .ignoreTickFailed) (by decide) ⟨lc, st, ph⟩
  · obtain ⟨i, hi, hsel, sel⟩ := exists_idleOps_of_not_accepted st (hinv.phaseZero (.inl st)) hev
    rw [step_command rest hsel]
    exact exec_idleOps hi (by cases i <;> exact sel)
  · obtain ⟨i, hsel, -⟩ := exists_selection ⟨hinv.busyReady, hinv.phaseZero, hinv.phaseReading⟩ false ev
    rw [step_command rest hsel, step_command rest ((selectionInWords_of_busy st ..).trans hsel)]
  · exact step_command rest (by rw [lc, st, hinv.phaseZero (.inl st)]; rfl)
  · exact step_command rest (by rw [show s.st = .idle from st, hinv.phaseZero (.inl st)]; rfl)
  · exact step_command rest (by rw [lc, st, hinv.phaseZero (.inl st)]; rfl)

/-! ### TICK and WAIT -/

/-- The state TICK leads to (R162). -/
def State.ticked (s : State) : State :=
  { s with hok := false, sok := false, outv := false, fk := .none, st := .reading, ph := .p0 }

/-- TICK clears the status and enters Reading (R162). -/
theorem exec_tick_eq {s : State} (sel : selectedIn .tick s) : exec .tick s = .next s.ticked :=
  (OpEffect.tick sel).exec_eq

/-- Settles O6: TICK's state, which holds the data of the idle state before it. -/
theorem tickStartsCycle : Obligations.TickStartsCycle := fun s lc st ph =>
  ⟨s.ticked, exec_tick_eq ⟨lc, st, ph⟩, rfl, fun hinv => { (hinv.idle st).noData with }⟩

/-- Settles O7: WAIT is an idle operation, and it is what no command selects in Idle. -/
theorem waitChangesNothing : Obligations.WaitChangesNothing := by
  have wait : ∀ s : State, s.st = .idle → s.ph = .p0 → exec .wait s = .next s := fun s st ph =>
    exec_idleOps (by decide) ⟨st, ph⟩
  refine ⟨wait, fun s st ph hin => ?_⟩
  have unchanged : s.advance = s := by rw [State.advance, hin, List.tail_nil, ← hin]
  rw [step_of_selection (fetch_of_nil hin) (by rw [st, ph]; rfl), unchanged, wait s st ph]

/-! ### REPORT -/

/-- Settles O29: what is published by OUTV, and the record by FK, DA and DB. -/
theorem reportOperation : Obligations.ReportOperation := by
  intro s lc st ph
  have sel : selectedIn .report s := ⟨lc, st, ph⟩
  refine ⟨fun n ho hn => ?_, fun ho fk => ?_, fun ho fk => ?_, fun e a ho fk da db => ?_, fun c r ho fk da db => ?_,
    fun ho fk => ?_⟩
  · rw [exec_report_of_outv sel ho, hn]; rfl
  · rw [exec_report_of_not_outv sel ho, fk]; rfl
  · rw [exec_report_of_not_outv sel ho, fk]; rfl
  · rw [exec_report_of_not_outv sel ho, fk, da, db]; rfl
  · rw [exec_report_of_not_outv sel ho, fk, da, db]; rfl
  · rw [exec_report_of_not_outv sel ho, fk]; rfl

/-- Settles O33: no other effect publishes, and REPORT publishes a value or invalid. -/
theorem onlyReportPublishes : Obligations.OnlyReportPublishes := by
  refine ⟨fun i s t h => publishes_eq_of_exec h, fun s t h => ?_⟩
  obtain ⟨-, ⟨-, rfl⟩ | ⟨-, rfl⟩⟩ := execReport_next h
  · exact ⟨some (s.meas.getD Config.unwrittenMeas), by simp [publishes]⟩
  · exact ⟨none, by simp [publishes]⟩

/-! ### The edges (R160) -/

/-- A step without RESET and without a path is the effect of one operation other than RESET, or bytes that arrive. -/
theorem step_cases_of_single {s t : State} (hinv : Inv s) (h : step s = .next t)
    (hreset : ∀ ev rest, s.inputs ≠ .command ⟨true, ev⟩ :: rest) (hpath : ∀ bs rest, s.inputs ≠ .path bs :: rest) :
    (∃ i, i ≠ .reset ∧ OpEffect i s.advance t) ∨ ∃ bs, t = deliverBytes bs s.advance := by
  have dispatched : ∀ ev, fetch s = dispatchPresentation s ⟨false, ev⟩ → ∃ i, i ≠ .reset ∧ OpEffect i s.advance t := by
    intro ev hf
    obtain ⟨i, hsel, single, -⟩ := exists_selection ⟨hinv.busyReady, hinv.phaseZero, hinv.phaseReading⟩ false ev
    rw [step_of_selection hf hsel] at h
    exact ⟨i, by rintro rfl; simpa using rst_of_selectionInWords_reset hsel, opEffect_of_exec single h⟩
  rcases hin : s.inputs with _ | ⟨⟨_ | _, ev⟩ | bs | bs, rest⟩
  · exact .inl (dispatched .none (fetch_of_nil hin))
  · exact .inl (dispatched ev (fetch_of_command hin))
  · exact absurd hin (hreset ev rest)
  · exact absurd hin (hpath bs rest)
  · rw [step_of_arrival hin] at h
    cases h
    exact .inr ⟨bs, rfl⟩

/-- Every operation but RESET stays where it is or goes along an edge. -/
theorem OpEffect.edge {i : Instr} {s t : State} (e : OpEffect i s t) (hi : i ≠ .reset) :
    (t.st = s.st ∧ t.ph = s.ph) ∨ ((s.st, s.ph), (t.st, t.ph)) ∈ cycleEdges := by
  cases e with
  | reset => exact absurd rfl hi
  | setupReady | setupFailed | describe | idle | flushByte | readUnanswered | readHold | frameA =>
    exact .inl ⟨rfl, rfl⟩
  | tick sel | flushEnd sel | readFailed sel | readShort sel | readFrame sel | hdrchkPass sel | hdrchkFail sel
  | sumchkPass sel | sumchkFail sel | extract sel | reportValue sel | reportFailure sel =>
    obtain ⟨-, st, ph⟩ := sel
    simp [st, ph, cycleEdges]

/-- Settles O46: each effect is on an edge or stays, and an arrival stays. -/
theorem onlyTheseEdges : Obligations.OnlyTheseEdges := by
  intro s t hinv h hreset hpath
  obtain ⟨i, hi, e⟩ | ⟨bs, rfl⟩ := step_cases_of_single hinv h hreset hpath
  · exact e.edge hi
  · exact .inl ⟨rfl, rfl⟩

end Sys2Proof.Machine
end

section
/-! POLL is the function `poll` (spec/43_poll_cycle.md R171, R172): under the duties of R247 ACQUIRE and VALIDATE lead to a
REPORT of what `poll` gives for the answer of RDEXACT, and without them no answer is ever given. -/

namespace Sys2Proof.Machine

/-! ### The reports of `poll` -/

/-- What `poll` gives is one PUBLISH, of a value, or of invalid after a record (R171). -/
theorem pollReports_cases (c : FrameLayout) (r : ReadResult) :
    (∃ d, pollReports c r = [.diag d, .publish none]) ∨ ∃ n, pollReports c r = [.publish (some n)] := by
  unfold pollReports
  split
  · exact .inl ⟨_, rfl⟩
  · exact .inl ⟨_, rfl⟩
  · split
    · exact .inl ⟨_, rfl⟩
    · exact .inl ⟨_, rfl⟩
    · exact .inr ⟨_, rfl⟩

/-- Sequences of reports with exactly one PUBLISH, the last (R167). -/
structure EndsInPublish (p : Option Word16) (rs : List Transaction) : Prop where
  reports : reports rs = rs
  readResults : readResults rs = []
  publishes : publishes rs = [.publish p]
  last : rs.getLast? = some (.publish p)

/-- The reports of `poll` end in their one PUBLISH. -/
theorem exists_endsInPublish (c : FrameLayout) (r : ReadResult) : ∃ p, EndsInPublish p (pollReports c r) := by
  obtain ⟨d, h⟩ | ⟨n, h⟩ := pollReports_cases c r
  · exact ⟨none, by rw [h]; exact ⟨rfl, rfl, rfl, rfl⟩⟩
  · exact ⟨some n, by rw [h]; exact ⟨rfl, rfl, rfl, rfl⟩⟩

/-- The PUBLISH transactions in two sequences, one after the other. -/
theorem publishes_append (o ts : List Transaction) : publishes (o ++ ts) = publishes o ++ publishes ts :=
  List.filter_append ..

/-- Every PUBLISH is a report. -/
theorem publishes_reports (o : List Transaction) : publishes (reports o) = publishes o := by
  rw [publishes, reports, List.filter_filter]
  congr 1
  funext t
  cases t <;> rfl

/-! ### The end of a cycle -/

/-- A cycle begun in `s` has ended in `t`: RDEXACT answered `r`, the reports are those of `poll`, and the PUBLISH of `p`
among them is the last transaction (R167, R171). -/
structure CycleEnded (s : State) (r : ReadResult) (p : Option Word16) (t : State) : Prop where
  lc : t.lc = .ready
  st : t.st = .idle
  ph : t.ph = .p0
  noData : NoData t
  results : readResults t.out = readResults s.out ++ [r]
  reports : reports t.out = reports s.out ++ pollReports s.layout.raw r
  publishes : publishes t.out = publishes s.out ++ [.publish p]
  last : t.out.getLast? = some (.publish p)

/-- The cycle begun in `s` stands before the REPORT that makes the reports of `poll` for the answer `r`. -/
structure BeforeReport (s : State) (r : ReadResult) (t : State) : Prop where
  layout : t.layout = s.layout
  inputs : t.inputs = s.inputs
  results : readResults t.out = readResults s.out ++ [r]
  reports : reports t.out = reports s.out
  report : exec .report t = .next (afterReport t (pollReports s.layout.raw r))

section
variable {s t : State} {r : ReadResult}

theorem BeforeReport.selectedIn (h : BeforeReport s r t) : selectedIn .report t :=
  (opEffect_of_exec (by decide) h.report).selectedIn

/-- REPORT ends the cycle. -/
theorem BeforeReport.ended (h : BeforeReport s r t) :
    ∃ p, CycleEnded s r p (afterReport t (pollReports s.layout.raw r)) := by
  obtain ⟨lc, -⟩ := h.selectedIn
  obtain ⟨p, rs⟩ := exists_endsInPublish s.layout.raw r
  have published : publishes t.out = publishes s.out := by
    rw [← publishes_reports, h.reports, publishes_reports]
  refine ⟨p, lc, rfl, rfl, ⟨rfl, rfl, rfl, rfl, rfl, rfl, rfl⟩, ?_, ?_, ?_, ?_⟩
  · rw [afterReport, readResults_append, rs.readResults, List.append_nil, h.results]
  · rw [afterReport, reports_append, rs.reports, h.reports]
  · rw [afterReport, publishes_append, rs.publishes, published]
  · rw [afterReport, List.getLast?_append, rs.last, Option.some_or]

/-- In Reporting with no value and the record that `poll` gives. -/
theorem exec_report_of_record {d : Record} {c : FrameLayout} (sel : selectedIn .report t) (ho : t.outv = false)
    (hd : recordOf t.layout.raw t.fk t.da t.db = d) (hpoll : pollReports c r = [.diag d, .publish none]) :
    exec .report t = .next (afterReport t (pollReports c r)) := by
  rw [exec_report_of_not_outv sel ho, hd, hpoll]

/-- In Reporting with the value that `poll` gives. -/
theorem exec_report_of_meas {n : Word16} {c : FrameLayout} (sel : selectedIn .report t) (ho : t.outv = true)
    (hn : t.meas = some n) (hpoll : pollReports c r = [.publish (some n)]) :
    exec .report t = .next (afterReport t (pollReports c r)) := by
  rw [exec_report_of_outv sel ho, hn, hpoll, Option.getD_some]

/-- VALIDATE of a whole frame leads to the REPORT of its verdict (R140, R168). -/
theorem exec_validate_beforeReport {F : List Byte} (sel : selectedIn .validate t) (ho : t.outv = false)
    (frame : FrameIn t F) (hr : acquireFrame t.layout.raw r = .frame F) :
    ∃ u, exec .validate t = .next u ∧ u.layout = t.layout ∧ u.inputs = t.inputs ∧ u.out = t.out ∧
      exec .report u = .next (afterReport u (pollReports t.layout.raw r)) := by
  obtain ⟨lc, st, ph⟩ := sel
  have verdict := validateIsValidate.1 t F lc st ph frame
  cases hv : validateFrame t.layout.raw F with
  | badHeader e a =>
    rw [hv] at verdict
    exact ⟨_, verdict, rfl, rfl, rfl, exec_report_of_record (d := .badHeader e a) ⟨lc, rfl, rfl⟩ ho rfl
      (by simp [pollReports, hr, hv])⟩
  | badChecksum x y =>
    rw [hv] at verdict
    exact ⟨_, verdict, rfl, rfl, rfl, exec_report_of_record (d := .badChecksum x y) ⟨lc, rfl, rfl⟩ ho rfl
      (by simp [pollReports, hr, hv])⟩
  | measurement n =>
    rw [hv] at verdict
    exact ⟨_, verdict, rfl, rfl, rfl, exec_report_of_meas ⟨lc, rfl, rfl⟩ rfl rfl (by simp [pollReports, hr, hv])⟩

/-- The part of POLL between TICK and REPORT: ACQUIRE, and VALIDATE where that has led to a frame (R103). -/
def acquireThenValidate (s : State) : Result :=
  thenIf (exec .acquire s) (·.isAt .ready .validating .p0) (exec .validate)

/-- POLL goes from TICK through ACQUIRE and VALIDATE to REPORT (R103). -/
theorem exec_poll_eq (sel : selectedIn .poll s) :
    exec .poll s = thenIf (acquireThenValidate s.ticked) (·.isAt .ready .reporting .p0) (exec .report) := by
  have ⟨lc, _, _⟩ := sel
  have ticked : execTick s = .next s.ticked := exec_tick_eq sel
  show execPoll s = _
  rw [execPoll, (State.isAt_iff ..).2 sel, whenSelected_true, ticked,
    thenIf_of_sel _ ((State.isAt_iff s.ticked ..).2 ⟨lc, rfl, rfl⟩)]
  rfl

/-- Under the duties of R247 ACQUIRE and VALIDATE lead to the REPORT of what `poll` gives (R171). -/
theorem exists_beforeReport (sel : selectedIn .acquire s) (ho : s.outv = false) (hflush : FlushEnds s.transport)
    (hread : ReadReturns s.transport) : ∃ t r, acquireThenValidate s = .next t ∧ BeforeReport s r t := by
  obtain ⟨lc, st, ph⟩ := sel
  obtain ⟨t, r, hacquire, hresults, hreports, ht, hverdict⟩ := acquireIsAcquireFrame s lc st ph hflush hread
  have tlc : t.lc = .ready := by rw [ht]; exact lc
  have tph : t.ph = .p0 := by rw [ht]
  have touv : t.outv = false := by rw [ht]; exact ho
  have tlayout : t.layout = s.layout := by rw [ht]
  have tinputs : t.inputs = s.inputs := by rw [ht]
  have raised : ∀ d, t.st = .reporting → recordOf t.layout.raw t.fk t.da t.db = d →
      pollReports s.layout.raw r = [.diag d, .publish none] → acquireThenValidate s = .next t ∧ BeforeReport s r t := by
    intro d tst hd hpoll
    refine ⟨?_, tlayout, tinputs, hresults, hreports, exec_report_of_record ⟨tlc, tst, tph⟩ touv hd hpoll⟩
    rw [acquireThenValidate, hacquire, thenIf_of_not_sel _ (by simp [State.isAt, tst])]
  cases hr : acquireFrame s.layout.raw r with
  | transportError =>
    rw [hr] at hverdict
    obtain ⟨tst, tfk, -⟩ := hverdict
    exact ⟨t, r, raised .transportError tst (by rw [tfk, recordOf]) (by simp [pollReports, hr])⟩
  | transportIncomplete =>
    rw [hr] at hverdict
    obtain ⟨tst, tfk, -⟩ := hverdict
    exact ⟨t, r, raised .transportIncomplete tst (by rw [tfk, recordOf]) (by simp [pollReports, hr])⟩
  | frame F =>
    rw [hr] at hverdict
    obtain ⟨tst, -, frame⟩ := hverdict
    have sel : selectedIn .validate t := ⟨tlc, tst, tph⟩
    obtain ⟨u, hvalidate, ulayout, uinputs, uout, hreport⟩ := exec_validate_beforeReport sel touv frame (tlayout ▸ hr)
    refine ⟨u, r, ?_, ulayout.trans tlayout, uinputs.trans tinputs, uout ▸ hresults, uout ▸ hreports, tlayout ▸ hreport⟩
    rw [acquireThenValidate, hacquire, thenIf_of_sel _ ((State.isAt_iff ..).2 sel), hvalidate]

/-- Under the duties of R247 POLL ends its cycle (R171). -/
theorem exec_poll_ended (sel : selectedIn .poll s) (hflush : FlushEnds s.transport) (hread : ReadReturns s.transport) :
    ∃ t r p, exec .poll s = .next t ∧ CycleEnded s r p t ∧ t.layout = s.layout ∧ t.inputs = s.inputs := by
  have ⟨lc, _, _⟩ := sel
  obtain ⟨u, r, hu, before⟩ := exists_beforeReport (s := s.ticked) ⟨lc, rfl, rfl⟩ rfl hflush hread
  obtain ⟨p, ended⟩ := before.ended
  refine ⟨_, r, p, ?_, { ended with }, before.layout, before.inputs⟩
  rw [exec_poll_eq sel, hu, thenIf_of_sel _ ((State.isAt_iff ..).2 before.selectedIn), before.report]

end

/-- Settles O31: TICK, then what leads to the REPORT of `poll`, then that REPORT. -/
theorem pollIsPoll : Obligations.PollIsPoll := by
  intro s lc st ph hflush hread
  obtain ⟨t, r, p, hpoll, ended, layout, inputs⟩ := exec_poll_ended ⟨lc, st, ph⟩ hflush hread
  exact ⟨t, r, p, hpoll, ended.lc, ended.st, ended.ph, layout, inputs, ended.noData, ended.results, ended.reports,
    ended.last⟩

/-! ### A cycle that is answered is one under the duties of R247 -/

/-- The cycle stands before the end of a FLUSH that has none, with the answers `rs` given so far. -/
structure NeverFlushed (rs : List ReadResult) (s : State) : Prop where
  results : readResults s.out = rs
  stage : s.st = .idle ∨ s.st = .reading ∧ s.ph = .p0
  endless : ¬ FlushEnds s.transport

/-- The cycle stands before the answer of a RDEXACT that is never answered, with the answers `rs` given so far. -/
structure NeverAnswered (rs : List ReadResult) (s : State) : Prop where
  results : readResults s.out = rs
  stage : s.st = .idle ∨ s.st = .reading
  silent : ∀ a ∈ s.transport.answers, a = .hold

section
variable {rs : List ReadResult} {i : Instr} {s t : State}

/-- A FLUSH that never ends keeps the cycle where it is (R113). -/
theorem OpEffect.neverFlushed (e : OpEffect i s t) (hi : i ∈ pathOps) (h : NeverFlushed rs s) : NeverFlushed rs t := by
  obtain ⟨results, stage, endless⟩ := h
  cases e with
  | tick => exact ⟨results, .inr ⟨rfl, rfl⟩, endless⟩
  | idle => exact ⟨results, stage, endless⟩
  | flushEnd sel hb => exact absurd ⟨0, hb⟩ endless
  | flushByte =>
    exact ⟨by simpa [readResults] using results, stage, fun ⟨m, hm⟩ => endless ⟨m + 1, hm⟩⟩
  | reset | setupReady | setupFailed | describe | frameA => simp [pathOps] at hi
  | _ sel =>
    obtain ⟨-, st, ph⟩ := sel
    simp [st, ph] at stage

/-- A RDEXACT that is never answered keeps the cycle in Reading (R257). -/
theorem OpEffect.neverAnswered (e : OpEffect i s t) (hi : i ∈ pathOps) (h : NeverAnswered rs s) :
    NeverAnswered rs t := by
  obtain ⟨results, stage, silent⟩ := h
  cases e with
  | tick => exact ⟨results, .inr rfl, silent⟩
  | idle => exact ⟨results, stage, silent⟩
  | flushEnd => exact ⟨by simpa [readResults] using results, .inr rfl, by simpa using silent⟩
  | flushByte => exact ⟨by simpa [readResults] using results, stage, by simpa using silent⟩
  | readUnanswered => exact ⟨results, stage, by simpa using silent⟩
  | readHold => exact ⟨results, stage, fun a ha => silent a (List.mem_of_mem_tail (by simpa using ha))⟩
  | readFailed sel ha | readShort sel ha | readFrame sel ha => simp [ha] at silent
  | reset | setupReady | setupFailed | describe | frameA => simp [pathOps] at hi
  | _ sel =>
    obtain ⟨-, st, -⟩ := sel
    simp [st] at stage

/-- A POLL in which RDEXACT answers meets the duties of R247. -/
theorem duties_of_poll_answered (h : exec .poll s = .next t) (hne : readResults t.out ≠ readResults s.out) :
    FlushEnds s.transport ∧ ReadReturns s.transport := by
  obtain ⟨-, st, -⟩ := (State.isAt_iff ..).1 (whenSelected_next.1 h).1
  constructor
  · by_contra endless
    have kept : NeverFlushed (readResults s.out) t :=
      pseudoOps_preserve (fun _ _ _ hi e => e.neverFlushed hi) (by decide) h ⟨rfl, .inl st, endless⟩
    exact hne kept.results
  · by_contra silent
    have kept : NeverAnswered (readResults s.out) t :=
      pseudoOps_preserve (fun _ _ _ hi e => e.neverAnswered hi) (by decide) h
        ⟨rfl, .inl st, by simpa [ReadReturns] using silent⟩
    exact hne kept.results

/-- A POLL in which RDEXACT answers makes the reports of `poll` on that answer. -/
theorem reports_of_poll_answered {r : ReadResult} (h : exec .poll s = .next t)
    (hr : readResults t.out = readResults s.out ++ [r]) :
    reports t.out = reports s.out ++ pollReports s.layout.raw r := by
  have sel : selectedIn .poll s := (State.isAt_iff ..).1 (whenSelected_next.1 h).1
  obtain ⟨hflush, hread⟩ := duties_of_poll_answered h (by simp [hr])
  obtain ⟨t', r', p, ht', ended, -⟩ := exec_poll_ended sel hflush hread
  cases ht'.symm.trans h
  obtain rfl : r' = r := by simpa [ended.results] using hr
  exact ended.reports

end

/-- Settles O35: both make the reports of `poll` on the same layout and answer. -/
theorem cycleDependsOnAnswerAlone : Obligations.CycleDependsOnAnswerAlone := by
  intro s1 s2 t1 t2 r hlayout h1 h2 hr1 hr2
  refine ⟨pollReports s1.layout.raw r, ?_, reports_of_poll_answered h1 hr1, ?_⟩
  · obtain ⟨d, h⟩ | ⟨n, h⟩ := pollReports_cases s1.layout.raw r <;> simp [h]
  · rw [hlayout]
    exact reports_of_poll_answered h2 hr2

end Sys2Proof.Machine
end

section
/-! Running the small steps yields `poll` (spec/43_poll_cycle.md R163, R171): the steps of a cycle are the operations POLL is
made of, whatever commands are presented meanwhile (R161). -/

namespace Sys2Proof.Machine

/-! ### Operations do not read the list of inputs -/

/-- The same state with other inputs to come. -/
def State.withInputs (s : State) (is : List Input) : State := { s with inputs := is }

/-- Selection does not depend on the inputs to come (R100). -/
theorem selectedIn_withInputs {i : Instr} {s : State} (is : List Input) (h : selectedIn i s) :
    selectedIn i (s.withInputs is) := by
  cases i <;> exact h

/-- An operation does the same whatever inputs are to come. -/
theorem OpEffect.withInputs {i : Instr} {s t : State} (e : OpEffect i s t) (is : List Input) :
    OpEffect i (s.withInputs is) (t.withInputs is) := by
  have sel' := selectedIn_withInputs is e.selectedIn
  cases e with
  | reset => exact .reset _
  | setupReady => exact .setupReady sel'
  | setupFailed => exact .setupFailed sel'
  | tick => exact .tick sel'
  | describe => exact .describe sel'
  | idle hi => exact .idle hi sel'
  | flushEnd sel hb => exact .flushEnd sel' hb
  | flushByte sel hb => exact .flushByte sel' hb
  | readUnanswered sel ha => exact .readUnanswered sel' ha
  | readHold sel ha => exact .readHold sel' ha
  | readFailed sel ha => exact .readFailed sel' ha
  | readShort sel ha hbs hl => exact .readShort sel' ha hbs hl
  | readFrame sel ha hbs hl => exact .readFrame sel' ha hbs hl
  | hdrchkPass sel heq => exact .hdrchkPass sel' heq
  | hdrchkFail sel hne => exact .hdrchkFail sel' hne
  | sumchkPass sel heq => exact .sumchkPass sel' heq
  | sumchkFail sel hne => exact .sumchkFail sel' hne
  | extract => exact .extract sel'
  | reportValue sel ho => exact .reportValue sel' ho
  | reportFailure sel ho => exact .reportFailure sel' ho
  | frameA => exact .frameA ..

/-! ### In a cycle a step is the phase operation selected -/

/-- The operations of the format phase (R100). -/
def phaseOps : List Instr := [.flush, .read, .hdrchk, .sumchk, .extract, .report]

/-- Where a phase operation is selected, a step performs it, whatever command is presented (R161 (e)). -/
theorem step_eq_phaseOp {i : Instr} {s t : State} {is : List Input} (hi : i ∈ phaseOps) (e : OpEffect i s t)
    (hin : OnlyCommands is) : step (s.withInputs is) = .next (t.withInputs is.tail) := by
  obtain ⟨ev, hf⟩ := fetch_of_onlyCommands (s := s.withInputs is) hin
  have selected : selectionInWords false s.lc s.st s.ph ev = some i := by
    have sel := e.selectedIn
    simp only [phaseOps, List.mem_cons, List.not_mem_nil, or_false] at hi
    obtain rfl | rfl | rfl | rfl | rfl | rfl := hi
    all_goals
      obtain ⟨lc, st, ph⟩ := sel
      rw [lc, st, ph]
      rfl
  rw [step_of_selection hf selected]
  exact (e.withInputs is.tail).exec_eq

/-- No phase operation but REPORT leads to Idle (R160). -/
theorem OpEffect.st_ne_idle {i : Instr} {s t : State} (e : OpEffect i s t) (hi : i ∈ phaseOps) (hreport : i ≠ .report) :
    t.st ≠ .idle := by
  cases e with
  | flushByte sel | readUnanswered sel | readHold sel =>
    obtain ⟨-, st, -⟩ := sel
    simp [st]
  | idle hidle =>
    have disjoint : ∀ j ∈ idleOps, j ∉ phaseOps := by decide
    exact absurd hi (disjoint i hidle)
  | reset | setupReady | setupFailed | tick | describe | frameA => simp [phaseOps] at hi
  | reportValue | reportFailure => exact absurd rfl hreport
  | _ => simp

/-! ### Runs inside a cycle -/

/-- One step more at the end of a run. -/
theorem run_succ_of_run {n : Nat} {s u v : State} (h : run n s = .next u) (hstep : step u = .next v) :
    run (n + 1) s = .next v := by
  induction n generalizing s with
  | zero =>
    cases h
    simp [Machine.run, hstep]
  | succ n ih =>
    rw [run] at h ⊢
    cases hs : step s with
    | next w =>
      rw [hs] at h
      exact ih h
    | fault | refused => rw [hs] at h; cases h

/-- A run of `n` steps from `s` to `u` on which ST is never Idle. -/
structure BusyRun (s : State) (n : Nat) (u : State) : Prop where
  run : run n s = .next u
  busy : ∀ m, m ≤ n → ∃ v, Machine.run m s = .next v ∧ v.st ≠ .idle

/-- `u` is reached from `s` by steps of a cycle, but for the inputs to come, which after the steps are commands only. -/
def ReachedInCycle (s u : State) : Prop := ∃ n is, OnlyCommands is ∧ BusyRun s n (u.withInputs is)

section
variable {s u v : State}

theorem reachedInCycle_refl (st : s.st ≠ .idle) (hin : OnlyCommands s.inputs) : ReachedInCycle s s :=
  ⟨0, s.inputs, hin, rfl, fun m hm => ⟨s, by rw [Nat.le_zero.1 hm]; rfl, st⟩⟩

/-- A phase operation but REPORT is one step more of the cycle. -/
theorem OpEffect.reachedInCycle {i : Instr} (e : OpEffect i u v) (hi : i ∈ phaseOps) (hreport : i ≠ .report)
    (h : ReachedInCycle s u) : ReachedInCycle s v := by
  obtain ⟨n, is, hin, hrun, busy⟩ := h
  have next := run_succ_of_run hrun (step_eq_phaseOp hi e hin)
  refine ⟨n + 1, is.tail, fun j hj => hin j (List.mem_of_mem_tail hj), next, fun m hm => ?_⟩
  obtain hm | rfl := Nat.le_succ_iff.1 hm
  · exact busy m hm
  · exact ⟨_, next, e.st_ne_idle hi hreport⟩

/-- What ACQUIRE and VALIDATE lead to is reached by the steps of the cycle. -/
theorem reachedInCycle_acquireThenValidate (st : s.st ≠ .idle) (hin : OnlyCommands s.inputs)
    (h : acquireThenValidate s = .next u) : ReachedInCycle s u := by
  have acquire : ∀ i ∈ [Instr.flush, .read], i ∈ phaseOps ∧ i ≠ .report := by decide
  have validate : ∀ i ∈ [Instr.hdrchk, .sumchk, .extract], i ∈ phaseOps ∧ i ≠ .report := by decide
  refine thenIf_preserves (P := ReachedInCycle s) (fun w hw => ?_) (fun w x hx => ?_) h
  · exact acquire_preserves (fun i _ _ hi e => e.reachedInCycle (acquire i hi).1 (acquire i hi).2) hw
      (reachedInCycle_refl st hin)
  · exact validate_preserves (fun i _ _ hi e => e.reachedInCycle (validate i hi).1 (validate i hi).2) hx

end

/-- Settles O32: after TICK the steps reach the state before POLL's REPORT, and then make that REPORT. -/
theorem smallStepsYieldPoll : Obligations.SmallStepsYieldPoll := by
  intro s rest hinv lc st hin hrest hflush hread
  have ph : s.ph = .p0 := hinv.phaseZero (.inl st)
  have tick : step s = .next s.advance.ticked := by
    rw [step_of_selection (fetch_of_command hin) (by rw [lc, st, ph]; rfl)]
    exact exec_tick_eq ⟨lc, st, ph⟩
  have commands : OnlyCommands s.advance.ticked.inputs := by
    show OnlyCommands s.inputs.tail
    rwa [hin]
  obtain ⟨t, r, ht, before⟩ := exists_beforeReport (s := s.advance.ticked) ⟨lc, rfl, rfl⟩ rfl hflush hread
  obtain ⟨p, ended⟩ := before.ended
  obtain ⟨n, is, his, hrun, busy⟩ := reachedInCycle_acquireThenValidate (by simp [State.ticked]) commands ht
  have report := step_eq_phaseOp (by decide) (opEffect_of_exec (by decide) before.report) his
  have afterTick : ∀ m, run (m + 1) s = run m s.advance.ticked := fun m => by rw [run, tick]
  refine ⟨n + 1, _, r, p, (afterTick _).trans (run_succ_of_run hrun report), ended.lc, ended.st, ended.ph,
    { ended.noData with }, fun m hm => ?_, ended.results, ended.reports, ended.publishes, ended.last⟩
  rw [afterTick]
  exact busy m (Nat.le_of_lt_succ hm)

end Sys2Proof.Machine
end

section
/-! Proofs of the lifecycle family: RESET (spec/44_lifecycle.md R181), SETUP (R183), DESCRIBE (R188), and the silence of a
failed block (R186). -/

namespace Sys2Proof.Machine

/-- A step with a command at the head of the inputs performs the operation selected with that input used up (R100). -/
theorem step_of_command {s : State} {c : Command} {rest : List Input} {i : Instr} (hin : s.inputs = .command c :: rest)
    (hi : selectionInWords c.rst s.lc s.st s.ph c.ev = some i) : step s = exec i { s with inputs := rest } := by
  rw [step_of_selection (fetch_of_command hin) hi, State.advance, hin, List.tail_cons]

/-! ### RESET, SETUP and DESCRIBE -/

/-- Settles O3: RESET is selected everywhere, and its state is an idle one without data. -/
theorem resetOperation : Obligations.ResetOperation := fun s =>
  ⟨_, (OpEffect.reset s).exec_eq, rfl, rfl, rfl, rfl, rfl, rfl, rfl, (idleData_reset s).noData, rfl, rfl, rfl, rfl⟩

/-- Settles O4: the two effects of SETUP in Uninit; elsewhere it is not accepted and selects an idle operation. -/
theorem setupEntersReadyOrFailed : Obligations.SetupEntersReadyOrFailed := by
  refine ⟨fun s lc st ph => ⟨(OpEffect.setupReady ⟨lc, st, ph⟩).exec_eq, (OpEffect.setupFailed ⟨lc, st, ph⟩).exec_eq⟩,
    fun s ok rest lc st ph hin => ?_⟩
  have ignored : ¬ accepted (.setup ok) s := fun h => lc h.1
  obtain ⟨i, hi, hsel, sel⟩ := exists_idleOps_of_not_accepted st ph ignored
  rw [step_of_command hin hsel]
  exact exec_idleOps hi (by cases i <;> exact sel)

/-- DESCRIBE makes one transaction, its text, and nothing else (R188). -/
theorem exec_describe_eq {s : State} (st : s.st = .idle) (ph : s.ph = .p0) :
    exec .describe s = .next (s.emit (.describe (Config.describeText s.layout.raw s.lc))) :=
  (OpEffect.describe ⟨st, ph⟩).exec_eq

/-- Settles O5: DESCRIBE's effect; in a cycle it is a command that is not accepted. -/
theorem describeReturnsText : Obligations.DescribeReturnsText := by
  refine ⟨fun s => exec_describe_eq, fun s rest hinv hst => ?_⟩
  have dropped : ¬ accepted .describe s := hst
  obtain ⟨-, ignored, -⟩ := ignoredCommandsLeaveNoTrace
  exact (ignored s .describe rest hinv dropped).2 hst

/-! ### A failed block (R186) -/

/-- A path decodes to a pseudo-operation or to nothing (R103). -/
theorem mem_pseudoOps_of_decode_path {bs : List Byte} {i : Instr} (h : decode ⟨.path, bs⟩ = .ok i) : i ∈ pseudoOps := by
  have expansion : ∀ is, pathInstr is = .ok i → i ∈ pseudoOps := by
    intro is his
    unfold pathInstr at his
    split at his <;> cases his <;> decide
  simp only [decode, decodePath] at h
  split at h
  next => cases h
  next =>
    split at h
    next =>
      split at h
      next is _ => exact expansion is h
      next => cases h
    next => cases h

/-- Only a ready block performs a pseudo-operation (R103). -/
theorem lc_eq_ready_of_pseudoOps {i : Instr} (hi : i ∈ pseudoOps) {s : State} (sel : selectedIn i s) : s.lc = .ready := by
  simp only [pseudoOps, List.mem_cons, List.not_mem_nil, or_false] at hi
  rcases hi with rfl | rfl | rfl <;> exact sel.1

/-- Only a ready block makes a step on a path; any other has it refused (R101). -/
theorem lc_eq_ready_of_step_path {s t : State} {bs : List Byte} {rest : List Input} (hin : s.inputs = .path bs :: rest)
    (h : step s = .next t) : s.lc = .ready := by
  have hf : fetch s = ⟨.path, bs⟩ := by rw [fetch, hin]
  cases hdec : decode (fetch s) with
  | ok i =>
    rw [step_of_decode_ok hdec] at h
    by_contra hlc
    have unselected : ¬ selectedIn i s.advance := fun sel =>
      hlc (lc_eq_ready_of_pseudoOps (s := s.advance) (mem_pseudoOps_of_decode_path (hf ▸ hdec)) sel)
    rw [unselectedOperationRefused i _ unselected] at h
    cases h
  | error e =>
    rw [step_of_decode_error hdec, undecoded_of_port_ne_transport (by simp [hf])] at h
    cases h

/-- In Failed every operation but RESET changes nothing, returns DESCRIBE's text, or lets bytes arrive (R186). -/
theorem OpEffect.cases_of_failed {i : Instr} {s t : State} (e : OpEffect i s t) (hi : i ≠ .reset)
    (lc : s.lc = .failed) : t = s ∨ (∃ text, t = s.emit (.describe text)) ∨ ∃ bs, t = deliverBytes bs s := by
  cases e with
  | reset => exact absurd rfl hi
  | idle => exact .inl rfl
  | describe => exact .inr (.inl ⟨_, rfl⟩)
  | frameA => exact .inr (.inr ⟨_, rfl⟩)
  | _ sel => exact absurd (lc.symm.trans sel.1) (by decide)

/-- A failed block is in no cycle (R26). -/
theorem Inv.st_eq_idle_of_failed {s : State} (h : Inv s) (lc : s.lc = .failed) : s.st = .idle := by
  by_contra hst
  simpa [lc] using h.busyReady hst

/-- What is true of a failed block as long as no RESET comes: since the transactions `o` it has reported nothing and left
the transport alone (R186). -/
structure SilentSince (o : List Transaction) (s : State) : Prop where
  inv : Inv s
  lc : s.lc = .failed
  noReset : NoReset s.inputs
  reports : reports s.out = reports o
  transportOps : transportOps s.out = transportOps o

section
variable {o : List Transaction} {s t : State}

/-- An input used up is no transaction. -/
theorem SilentSince.advance (h : SilentSince o s) : SilentSince o s.advance where
  inv := inv_advance h.inv
  lc := h.lc
  noReset i hi := h.noReset i (List.mem_of_mem_tail hi)
  reports := h.reports
  transportOps := h.transportOps

/-- DESCRIBE's text is neither a report nor a transport transaction. -/
theorem SilentSince.describe (h : SilentSince o s) (text : String) : SilentSince o (s.emit (.describe text)) where
  inv := inv_emit h.inv _
  lc := h.lc
  noReset := h.noReset
  reports := by simpa [Machine.reports] using h.reports
  transportOps := by simpa [Machine.transportOps] using h.transportOps

/-- Bytes that arrive are no transaction. -/
theorem SilentSince.deliver (h : SilentSince o s) (bs : List Byte) : SilentSince o (deliverBytes bs s) where
  inv := inv_deliverBytes h.inv bs
  lc := h.lc
  noReset := h.noReset
  reports := h.reports
  transportOps := h.transportOps

/-- A failed block is as silent after every step. -/
theorem SilentSince.step (h : SilentSince o s) (hstep : step s = .next t) : SilentSince o t := by
  have noReset : ∀ ev rest, s.inputs ≠ .command ⟨true, ev⟩ :: rest := fun ev rest hin =>
    h.noReset _ (by simp [hin]) ev rfl
  have noPath : ∀ bs rest, s.inputs ≠ .path bs :: rest := fun bs rest hin => by
    simpa [h.lc] using lc_eq_ready_of_step_path hin hstep
  obtain ⟨i, hi, e⟩ | ⟨bs, rfl⟩ := step_cases_of_single h.inv hstep noReset noPath
  · obtain rfl | ⟨text, rfl⟩ | ⟨bs, rfl⟩ := e.cases_of_failed hi h.lc
    · exact h.advance
    · exact h.advance.describe text
    · exact h.advance.deliver bs
  · exact h.advance.deliver bs

end

/-- Settles O41: silence is kept along the run; DESCRIBE is selected in Failed as in every mode. -/
theorem failedInstanceIsSilent : Obligations.FailedInstanceIsSilent := by
  refine ⟨fun s t n hinv lc hin hrun => ?_, fun s rest hinv lc hin => ?_⟩
  · have silent : SilentSince s.out t :=
      run_preserves (fun _ _ h => h.step) n ⟨hinv, lc, hin, rfl, rfl⟩ hrun
    exact ⟨silent.lc, silent.inv.st_eq_idle_of_failed silent.lc, silent.reports, silent.transportOps⟩
  · have st := hinv.st_eq_idle_of_failed lc
    have ph := hinv.phaseZero (.inl st)
    rw [step_of_command hin (by rw [st, ph]; rfl)]
    exact exec_describe_eq st ph

end Sys2Proof.Machine
end

section
/-! Proofs of the exceptions family: what a failure records (spec/60_exceptions.md R205, R212), RESET before everything else
(R210), and instances that share nothing (R227). -/

namespace Sys2Proof.Machine

/-! ### Failures and RESET -/

/-- Settles O30: `raise` computes kind by kind, and the record it is given decides which registers it writes. -/
theorem raiseRecordsFailure : Obligations.RaiseRecordsFailure := fun _ =>
  ⟨rfl, rfl, fun _ _ => rfl, fun _ _ => rfl⟩

/-- Settles O47: with the RESET line asserted the table in words selects RESET before it looks at LC, ST, PH or EV. -/
theorem resetOverridesEverything : Obligations.ResetOverridesEverything := fun _ _ _ hin =>
  step_of_command hin rfl

/-! ### Several instances (R227) -/

/-- An instance's step is a step of its own state, put in its own place. -/
theorem stepInstance_eq_some_iff {i : Nat} {sys sys' : List State} :
    stepInstance i sys = some sys' ↔ ∃ s t, sys[i]? = some s ∧ step s = .next t ∧ sys.set i t = sys' := by
  unfold stepInstance
  cases hs : sys[i]? with
  | none => simp
  | some s => cases ht : step s <;> simp [ht]

/-- An instance's step leaves every other instance as it is. -/
theorem getElem?_of_stepInstance {i j : Nat} {sys sys' : List State} (h : stepInstance i sys = some sys') (hji : j ≠ i) :
    sys'[j]? = sys[j]? := by
  obtain ⟨s, t, -, -, rfl⟩ := stepInstance_eq_some_iff.mp h
  exact List.getElem?_set_ne hji.symm

/-- Steps of two different instances can be taken in either order: neither changes the state the other starts from, and
they write different places of the list. -/
theorem stepInstance_swap {i j : Nat} {sys sys1 sys2 : List State} (hi : stepInstance i sys = some sys1)
    (hj : stepInstance j sys1 = some sys2) (hji : j ≠ i) :
    ∃ sys3, stepInstance j sys = some sys3 ∧ stepInstance i sys3 = some sys2 := by
  have unmoved : sys1[j]? = sys[j]? := getElem?_of_stepInstance hi hji
  obtain ⟨s, t, hs, hst, rfl⟩ := stepInstance_eq_some_iff.mp hi
  obtain ⟨u, v, hu, huv, rfl⟩ := stepInstance_eq_some_iff.mp hj
  have first : stepInstance j sys = some (sys.set j v) := stepInstance_eq_some_iff.mpr ⟨u, v, unmoved ▸ hu, huv, rfl⟩
  exact ⟨_, first, stepInstance_eq_some_iff.mpr
    ⟨s, t, (getElem?_of_stepInstance first hji.symm).trans hs, hst, List.set_comm v t hji⟩⟩

/-- Settles O58: the list changes at the stepping instance only, so two steps at different places commute. -/
theorem instancesAreIndependent : Obligations.InstancesAreIndependent := fun _ _ _ h =>
  ⟨fun _ => getElem?_of_stepInstance h, fun _ _ hji hj => stepInstance_swap h hj hji⟩

end Sys2Proof.Machine
end

section
/-! Proofs of the reset and hazards family: the two waits, one iteration of FLUSH and a READ that holds
(spec/70_reset_and_hazards.md R257), and that no operation halts the block where it is selected (R256). -/

namespace Sys2Proof.Machine

/-! ### The two waits (R257) -/

/-- What is left of a transport with a byte once RDBYTE has taken it (R58). -/
theorem Transport.discardOne_of_ne_nil {tr : Transport} (hb : tr.arrive.buffer ≠ []) :
    tr.discardOne = { tr.arrive with consumed := tr.consumed + 1 } := by
  have available : 1 ≤ tr.arrive.buffer.length := List.length_pos_of_ne_nil hb
  rw [Transport.discardOne, Transport.consume, Nat.min_eq_left available, Transport.arrive_consumed]

/-- Settles O9: by whether AVAIL finds a byte. -/
theorem flushIteration : Obligations.FlushIteration := by
  intro s lc st ph
  have sel : selectedIn .flush s := ⟨lc, st, ph⟩
  refine ⟨exec_flush_of_nil sel, fun b bs hcons => ?_⟩
  have hb : s.transport.arrive.buffer ≠ [] := by simp [hcons]
  rw [exec_flush_of_ne_nil sel hb, State.discardOne, Transport.discardOne_of_ne_nil hb, hcons]
  rfl

/-- Once the burst has arrived, using up an answer of the script changes nothing else of the transport (R59). -/
theorem Transport.arrive_answerTaken {tr : Transport} {a : ReadAnswer} {as : List ReadAnswer}
    (ha : tr.answers = a :: as) : tr.arrive.answerTaken = { tr.arrive with answers := as } := by
  rw [Transport.answerTaken, Transport.arrive_answers, ha, List.tail_cons]

/-- Settles O17: the two effects of READ in which it holds. -/
theorem readHoldsWithoutAnswer : Obligations.ReadHoldsWithoutAnswer := by
  intro s lc st ph
  have sel : selectedIn .read s := ⟨lc, st, ph⟩
  refine ⟨fun ha => (OpEffect.readUnanswered sel ha).exec_eq, fun as ha => ?_⟩
  rw [(OpEffect.readHold sel ha).exec_eq, Transport.arrive_answerTaken ha]
  rfl

/-! ### The block never halts (R256) -/

/-- A path answers a next state when its first part does, and its second part does where the path goes on to it. -/
theorem thenIf_completes {r : Result} {sel : State → Bool} {f : State → Result} (hr : ∃ u, r = .next u)
    (hf : ∀ u, sel u = true → ∃ t, f u = .next t) : ∃ t, thenIf r sel f = .next t := by
  obtain ⟨u, rfl⟩ := hr
  cases hu : sel u
  · exact ⟨u, thenIf_of_not_sel f hu⟩
  · rw [thenIf_of_sel f hu]
    exact hf u hu

/-- An operation that answers a next state where it is selected does so repeated, in the form FLUSH and READ are
repeated in. -/
theorem repeated_completes {g : Nat → State → Result} {f : State → Result} {sel : State → Bool}
    (hzero : ∀ s, g 0 s = .next s) (hsucc : ∀ n s, g (n + 1) s = thenIf (f s) sel (g n))
    (hf : ∀ s, sel s = true → ∃ t, f s = .next t) (n : Nat) {s : State} (hs : sel s = true) : ∃ t, g n s = .next t := by
  induction n generalizing s with
  | zero => exact ⟨s, hzero s⟩
  | succ n ih =>
    rw [hsucc]
    exact thenIf_completes (hf s hs) fun _ => ih

/-- ACQUIRE completes where it is selected: each iteration of FLUSH and of READ does. -/
theorem exec_acquire_completes {s : State} (sel : selectedIn .acquire s) : ∃ t, exec .acquire s = .next t := by
  have atFlush : s.isAt .ready .reading .p0 = true := (State.isAt_iff ..).2 sel
  have flush : ∃ u, flushAll s.transport.flushFuel s = .next u :=
    repeated_completes (g := flushAll) (fun _ => rfl) (fun _ _ => rfl)
      (fun _ h => exec_completes_of_single (i := .flush) (by decide) ((State.isAt_iff ..).1 h)) _ atFlush
  have read : ∀ (n : Nat) (u : State), u.isAt .ready .reading .p1 = true → ∃ t, readAll n u = .next t := fun n _ =>
    repeated_completes (g := readAll) (fun _ => rfl) (fun _ _ => rfl)
      (fun _ h => exec_completes_of_single (i := .read) (by decide) ((State.isAt_iff ..).1 h)) n
  show ∃ t, execAcquire s = .next t
  rw [execAcquire, atFlush, whenSelected_true]
  exact thenIf_completes flush fun u => read _ u

/-- VALIDATE completes where it is selected: each of its three operations does. -/
theorem exec_validate_completes {s : State} (sel : selectedIn .validate s) : ∃ t, exec .validate s = .next t := by
  have hdrchk : ∃ u, exec .hdrchk s = .next u := exec_completes_of_single (by decide) sel
  rw [exec_validate_eq sel]
  exact thenIf_completes
    (thenIf_completes hdrchk fun _ h => exec_completes_of_single (i := .sumchk) (by decide) ((State.isAt_iff ..).1 h))
    fun _ h => exec_completes_of_single (i := .extract) (by decide) ((State.isAt_iff ..).1 h)

/-- POLL completes where it is selected: TICK leads to ACQUIRE, and VALIDATE and REPORT complete where it goes on to them. -/
theorem exec_poll_completes {s : State} (sel : selectedIn .poll s) : ∃ t, exec .poll s = .next t := by
  have ⟨lc, _, _⟩ := sel
  have acquire : ∃ u, exec .acquire s.ticked = .next u := exec_acquire_completes ⟨lc, rfl, rfl⟩
  have validate : ∃ u, acquireThenValidate s.ticked = .next u :=
    thenIf_completes acquire fun _ h => exec_validate_completes ((State.isAt_iff ..).1 h)
  rw [exec_poll_eq sel]
  exact thenIf_completes validate fun _ h =>
    exec_completes_of_single (i := .report) (by decide) ((State.isAt_iff ..).1 h)

/-- Settles O49: a single operation has an effect in every branch, and a pseudo-operation is a path of these. -/
theorem everySelectedOperationCompletes : Obligations.EverySelectedOperationCompletes := by
  intro i s sel
  by_cases hi : i ∈ pseudoOps
  · simp only [pseudoOps, List.mem_cons, List.not_mem_nil, or_false] at hi
    rcases hi with rfl | rfl | rfl
    · exact exec_acquire_completes sel
    · exact exec_validate_completes sel
    · exact exec_poll_completes sel
  · exact exec_completes_of_single hi sel

end Sys2Proof.Machine
end
